-- ==== Sys2Proof/Word.lean ====
section
/-! DEFINITION. The word types of the block (00_scope.md R4, R7; 30_encoding.md R77, R79, R83).
Every value of the block is an unsigned bit vector; `^^^` is the spec's `^`, and nothing sign-extends. -/

namespace Sys2Proof

/-- A byte: every protocol field, operand and 8-bit register (R4, R7, R55). -/
abbrev Byte := BitVec 8

/-- A command word (R79). -/
abbrev Word := BitVec 16

/-- A FEED dispatch key, the state code in bits 10 to 8 and the byte in bits 7 to 0 (R83). -/
abbrev Key := BitVec 11

/-- An FSM state code (R77). -/
abbrev StCode := BitVec 3

end Sys2Proof
end

