-- ==== Sys2Proof/Config.lean ====
section
/-! DEFINITION. The parameters of the block (00_scope.md R2, R4; 30_encoding.md R74) and its one free value. -/

namespace Sys2Proof.Config

/-- `HEADER_1`, normative value 0x06 (R4, R74, 93_implementation_defined.md U11). -/
def header1 : Byte := 0x06#8

/-- `HEADER_2`, normative value 0x85 (R4, R74, U11). -/
def header2 : Byte := 0x85#8

/-- `MAX_LEN`, the longest payload (R4). -/
def maxLen : Nat := 255

/-- FREE VALUE. What a byte of `PAY` holds that the host has not written in the run: "the host's; any value"
(10_state.md R34). DESIGN CHOICE, notes/assumptions/5.md; safe: nothing can evaluate it. -/
opaque payInit : Nat → Byte

end Sys2Proof.Config
end

