-- ==== Sys2Proof/Syntax.lean ====
section
/-! DEFINITION. The instructions: one constructor per row of spec/opcode_table.json. The six commands and the
ten kinds of refused word are the rows of format CMD16 (30_encoding.md R80, R81); the twelve FEED cases are the rows
of format FEED_DISPATCH11 (R83), which FEED selects by its key; the table's first row is a note. -/

namespace Sys2Proof

/-- One constructor per row of the opcode table. A refused word keeps every bit its row leaves open. -/
inductive Instr where
  /-- Row `_README`: the table's own reading note. It has no encoding (its match and mask are "-"). -/
  | readme
  | nop
  | feed (b : Byte)
  | drain
  | bind (c : Byte)
  | unbind
  | encode (l : Byte)
  /-- `cmd = 110`; `low` is bits 12 to 0. -/
  | reserved110 (low : BitVec 13)
  /-- `cmd = 111`; `low` is bits 12 to 0. -/
  | reserved111 (low : BitVec 13)
  /-- Bit 8 set; `hi` is bits 12 to 9. -/
  | reservedRsv0 (cmd : BitVec 3) (hi : BitVec 4) (opd : Byte)
  /-- Bit 9 set and bit 8 clear; `hi` is bits 12 to 10. -/
  | reservedRsv1 (cmd : BitVec 3) (hi : BitVec 3) (opd : Byte)
  /-- Bit 10 set and bits 9 to 8 clear; `hi` is bits 12 to 11. -/
  | reservedRsv2 (cmd : BitVec 3) (hi : BitVec 2) (opd : Byte)
  /-- Bit 11 set and bits 10 to 8 clear; `hi` is bit 12. -/
  | reservedRsv3 (cmd : BitVec 3) (hi : BitVec 1) (opd : Byte)
  /-- Bit 12 set and bits 11 to 8 clear. -/
  | reservedRsv4 (cmd : BitVec 3) (opd : Byte)
  | reservedNopOpd (opd : Byte)
  | reservedDrainOpd (opd : Byte)
  | reservedUnbindOpd (opd : Byte)
  /-- Its key fixes the byte, `HEADER_1`. -/
  | feedSh1Hit
  | feedSh1Miss (b : Byte)
  /-- Its key fixes the byte, `HEADER_2`. -/
  | feedSh2Hit
  /-- Its key fixes the byte, `HEADER_1`. -/
  | feedSh2Rehit
  | feedSh2Miss (b : Byte)
  | feedRlen (b : Byte)
  | feedRbodyData (b : Byte)
  | feedRbodyZchk (b : Byte)
  | feedRchk (b : Byte)
  | feedIllegal5 (b : Byte)
  | feedIllegal6 (b : Byte)
  | feedIllegal7 (b : Byte)
  deriving DecidableEq, Repr

/-- The row's mnemonic in spec/opcode_table.json. -/
def Instr.mnemonic : Instr → String
  | .readme => "_README"
  | .nop => "NOP"
  | .feed _ => "FEED"
  | .drain => "DRAIN"
  | .bind _ => "BIND"
  | .unbind => "UNBIND"
  | .encode _ => "ENCODE"
  | .reserved110 _ => "RESERVED.110"
  | .reserved111 _ => "RESERVED.111"
  | .reservedRsv0 _ _ _ => "RESERVED.RSV0"
  | .reservedRsv1 _ _ _ => "RESERVED.RSV1"
  | .reservedRsv2 _ _ _ => "RESERVED.RSV2"
  | .reservedRsv3 _ _ _ => "RESERVED.RSV3"
  | .reservedRsv4 _ _ => "RESERVED.RSV4"
  | .reservedNopOpd _ => "RESERVED.NOP_OPD"
  | .reservedDrainOpd _ => "RESERVED.DRAIN_OPD"
  | .reservedUnbindOpd _ => "RESERVED.UNBIND_OPD"
  | .feedSh1Hit => "FEED.SH1.HIT"
  | .feedSh1Miss _ => "FEED.SH1.MISS"
  | .feedSh2Hit => "FEED.SH2.HIT"
  | .feedSh2Rehit => "FEED.SH2.REHIT"
  | .feedSh2Miss _ => "FEED.SH2.MISS"
  | .feedRlen _ => "FEED.RLEN"
  | .feedRbodyData _ => "FEED.RBODY.DATA"
  | .feedRbodyZchk _ => "FEED.RBODY.ZCHK"
  | .feedRchk _ => "FEED.RCHK"
  | .feedIllegal5 _ => "FEED.ILLEGAL.5"
  | .feedIllegal6 _ => "FEED.ILLEGAL.6"
  | .feedIllegal7 _ => "FEED.ILLEGAL.7"

/-- The ten cases of a FEED step, in the priority order of 30_encoding.md R83. -/
inductive FeedCase where
  | sh1Hit | sh1Miss | sh2Hit | sh2Rehit | sh2Miss | rlen | rbodyData | rbodyZchk | rchk | illegal
  deriving DecidableEq, Repr

/-- What an instruction is written as: a command word on the port (R79); a FEED dispatch key with the register
condition `cnt == len` that tells the two READ_BODY rows apart (R83); or nothing (the table's note). -/
inductive Code where
  | command (w : Word)
  | key (k : Key) (atLen : Bool)
  | absent
  deriving DecidableEq, Repr

end Sys2Proof
end

