-- ==== Sys2Proof/WellFormed.lean ====
section
/-! DEFINITION. Which instructions stand for a word or a key of their own row: the row's fixed bits leave no room
for a neighbour's (30_encoding.md R80, R81, R83). -/

namespace Sys2Proof

/-- `cmd` is the code of one of the six commands (R80), so that the two reserved codes keep their own rows. -/
def isCommandCode (cmd : BitVec 3) : Bool := decide (cmd < 6#3)

/-- The well-formed instructions. The RSV rows exclude the reserved codes, the OPD rows exclude the zero operand
that makes the word legal (R81), and a miss excludes the header bytes its key's higher priority rows take (R83). -/
def Instr.wf : Instr → Bool
  | .readme => false
  | .nop | .feed _ | .drain | .bind _ | .unbind | .encode _ => true
  | .reserved110 _ | .reserved111 _ => true
  | .reservedRsv0 cmd _ _ => isCommandCode cmd
  | .reservedRsv1 cmd _ _ => isCommandCode cmd
  | .reservedRsv2 cmd _ _ => isCommandCode cmd
  | .reservedRsv3 cmd _ _ => isCommandCode cmd
  | .reservedRsv4 cmd _ => isCommandCode cmd
  | .reservedNopOpd opd | .reservedDrainOpd opd | .reservedUnbindOpd opd => opd != 0#8
  | .feedSh1Hit | .feedSh2Hit => true
  | .feedSh2Rehit => Config.header1 != Config.header2
  | .feedSh1Miss b => b != Config.header1
  | .feedSh2Miss b => b != Config.header1 && b != Config.header2
  | .feedRlen _ | .feedRbodyData _ | .feedRbodyZchk _ | .feedRchk _ => true
  | .feedIllegal5 _ | .feedIllegal6 _ | .feedIllegal7 _ => true

end Sys2Proof
end

