-- ==== Sys2Proof/Decode.lean ====
section
/-! DEFINITION. The decoders and the encoder (30_encoding.md): FSM state codes (R77), command words (R79 to R82),
the FEED dispatch key (R83), each with its table as the spec prints it. -/

namespace Sys2Proof

/-! The FSM state codes of R77. -/

abbrev Fsm.seekHeader1 : StCode := 0#3
abbrev Fsm.seekHeader2 : StCode := 1#3
abbrev Fsm.readLen : StCode := 2#3
abbrev Fsm.readBody : StCode := 3#3
abbrev Fsm.readChecksum : StCode := 4#3

/-- The five codes that name a state (R21, R77); 5, 6 and 7 name none (R78). -/
def Fsm.legal (st : StCode) : Bool := decide (st < 5#3)

/-! The fields of a command word (R79). -/

def cmdOf (w : Word) : BitVec 3 := w.extractLsb' 13 3
def rsvOf (w : Word) : BitVec 5 := w.extractLsb' 8 5
def opdOf (w : Word) : Byte := w.extractLsb' 0 8

/-- A command word with `rsv = 0` (R79). -/
def commandWord (cmd : BitVec 3) (opd : Byte) : Word := cmd ++ 0#5 ++ opd

/-! The refused words of R81, put together from the fields their rows leave open. -/

def word110 (low : BitVec 13) : Word := 6#3 ++ low
def word111 (low : BitVec 13) : Word := 7#3 ++ low
def wordRsv0 (cmd : BitVec 3) (hi : BitVec 4) (opd : Byte) : Word := cmd ++ hi ++ 1#1 ++ opd
def wordRsv1 (cmd : BitVec 3) (hi : BitVec 3) (opd : Byte) : Word := cmd ++ hi ++ 2#2 ++ opd
def wordRsv2 (cmd : BitVec 3) (hi : BitVec 2) (opd : Byte) : Word := cmd ++ hi ++ 4#3 ++ opd
def wordRsv3 (cmd : BitVec 3) (hi : BitVec 1) (opd : Byte) : Word := cmd ++ hi ++ 8#4 ++ opd
def wordRsv4 (cmd : BitVec 3) (opd : Byte) : Word := cmd ++ 16#5 ++ opd

/-- The row of a word with `rsv != 0`. Such a word may match several RSV rows, which share priority and effect;
it is read as the first of them in the table (DESIGN CHOICE, notes/assumptions/9.md). -/
def decodeRsv (w : Word) : Instr :=
  if w.extractLsb' 8 1 = 1#1 then .reservedRsv0 (cmdOf w) (w.extractLsb' 9 4) (opdOf w)
  else if w.extractLsb' 9 1 = 1#1 then .reservedRsv1 (cmdOf w) (w.extractLsb' 10 3) (opdOf w)
  else if w.extractLsb' 10 1 = 1#1 then .reservedRsv2 (cmdOf w) (w.extractLsb' 11 2) (opdOf w)
  else if w.extractLsb' 11 1 = 1#1 then .reservedRsv3 (cmdOf w) (w.extractLsb' 12 1) (opdOf w)
  else .reservedRsv4 (cmdOf w) (opdOf w)

/-- A word with `rsv = 0` and one of the six command codes; the operand is used unchanged (R80, R82). -/
def decodeCommand (cmd : BitVec 3) (opd : Byte) : Instr :=
  if cmd = 0#3 then (if opd = 0#8 then .nop else .reservedNopOpd opd)
  else if cmd = 1#3 then .feed opd
  else if cmd = 2#3 then (if opd = 0#8 then .drain else .reservedDrainOpd opd)
  else if cmd = 3#3 then .bind opd
  else if cmd = 4#3 then (if opd = 0#8 then .unbind else .reservedUnbindOpd opd)
  else .encode opd

/-- The command word decoder, total on the 65,536 words: one of the six commands, or a refused word by the name of
its row (R80, R81). -/
def decode (w : Word) : Instr :=
  if cmdOf w = 6#3 then .reserved110 (w.extractLsb' 0 13)
  else if cmdOf w = 7#3 then .reserved111 (w.extractLsb' 0 13)
  else if rsvOf w ≠ 0#5 then decodeRsv w
  else decodeCommand (cmdOf w) (opdOf w)

/-- The case a FEED step takes, for any two header values (R83). `HEADER_2` is tested before `HEADER_1` in
`SEEK_HEADER_2`, so that the hit would win if the two were equal (92_eei_decisions.md D2). -/
def FeedCase.select (h1 h2 : Byte) (st : StCode) (b : Byte) (atLen : Bool) : FeedCase :=
  if st = Fsm.seekHeader1 then (if b = h1 then .sh1Hit else .sh1Miss)
  else if st = Fsm.seekHeader2 then (if b = h2 then .sh2Hit else if b = h1 then .sh2Rehit else .sh2Miss)
  else if st = Fsm.readLen then .rlen
  else if st = Fsm.readBody then (if atLen then .rbodyZchk else .rbodyData)
  else if st = Fsm.readChecksum then .rchk
  else .illegal

/-- The dispatch key of a FEED (R83). -/
def keyOf (st : StCode) (b : Byte) : Key := st ++ b

/-- The instruction that names a case of FEED. -/
def FeedCase.instr (c : FeedCase) (st : StCode) (b : Byte) : Instr :=
  match c with
  | .sh1Hit => .feedSh1Hit
  | .sh1Miss => .feedSh1Miss b
  | .sh2Hit => .feedSh2Hit
  | .sh2Rehit => .feedSh2Rehit
  | .sh2Miss => .feedSh2Miss b
  | .rlen => .feedRlen b
  | .rbodyData => .feedRbodyData b
  | .rbodyZchk => .feedRbodyZchk b
  | .rchk => .feedRchk b
  | .illegal => if st = 5#3 then .feedIllegal5 b else if st = 6#3 then .feedIllegal6 b else .feedIllegal7 b

/-- The dispatch decoder: the row of R83 that a key and the condition `cnt == len` select, at the header values of
the configuration. -/
def decodeKey (k : Key) (atLen : Bool) : Instr :=
  (FeedCase.select Config.header1 Config.header2 (k.extractLsb' 8 3) (k.extractLsb' 0 8) atLen).instr
    (k.extractLsb' 8 3) (k.extractLsb' 0 8)

/-- The word or key of a well-formed instruction, from the encodings of R80, R81 and R83. -/
def encode : Instr → Code
  | .readme => .absent
  | .nop => .command (commandWord 0#3 0#8)
  | .feed b => .command (commandWord 1#3 b)
  | .drain => .command (commandWord 2#3 0#8)
  | .bind c => .command (commandWord 3#3 c)
  | .unbind => .command (commandWord 4#3 0#8)
  | .encode l => .command (commandWord 5#3 l)
  | .reserved110 low => .command (word110 low)
  | .reserved111 low => .command (word111 low)
  | .reservedRsv0 cmd hi opd => .command (wordRsv0 cmd hi opd)
  | .reservedRsv1 cmd hi opd => .command (wordRsv1 cmd hi opd)
  | .reservedRsv2 cmd hi opd => .command (wordRsv2 cmd hi opd)
  | .reservedRsv3 cmd hi opd => .command (wordRsv3 cmd hi opd)
  | .reservedRsv4 cmd opd => .command (wordRsv4 cmd opd)
  | .reservedNopOpd opd => .command (commandWord 0#3 opd)
  | .reservedDrainOpd opd => .command (commandWord 2#3 opd)
  | .reservedUnbindOpd opd => .command (commandWord 4#3 opd)
  | .feedSh1Hit => .key (keyOf Fsm.seekHeader1 Config.header1) false
  | .feedSh1Miss b => .key (keyOf Fsm.seekHeader1 b) false
  | .feedSh2Hit => .key (keyOf Fsm.seekHeader2 Config.header2) false
  | .feedSh2Rehit => .key (keyOf Fsm.seekHeader2 Config.header1) false
  | .feedSh2Miss b => .key (keyOf Fsm.seekHeader2 b) false
  | .feedRlen b => .key (keyOf Fsm.readLen b) false
  | .feedRbodyData b => .key (keyOf Fsm.readBody b) false
  | .feedRbodyZchk b => .key (keyOf Fsm.readBody b) true
  | .feedRchk b => .key (keyOf Fsm.readChecksum b) false
  | .feedIllegal5 b => .key (keyOf 5#3 b) false
  | .feedIllegal6 b => .key (keyOf 6#3 b) false
  | .feedIllegal7 b => .key (keyOf 7#3 b) false

/-- The instruction a code is read as. -/
def decodeCode : Code → Option Instr
  | .command w => some (decode w)
  | .key k atLen => some (decodeKey k atLen)
  | .absent => none

/-! The tables as the spec prints them, against which the decoders are stated. -/

/-- A row of format CMD16 of spec/opcode_table.json. -/
structure CommandRow where
  mnemonic : String
  pattern : Word
  mask : Word
  deriving DecidableEq, Repr

/-- The CMD16 rows by priority, then by their place in the table (R80, R81, R166). -/
def commandRows : List CommandRow :=
  [⟨"NOP", 0x0000#16, 0xFFFF#16⟩, ⟨"FEED", 0x2000#16, 0xFF00#16⟩, ⟨"DRAIN", 0x4000#16, 0xFFFF#16⟩,
   ⟨"BIND", 0x6000#16, 0xFF00#16⟩, ⟨"UNBIND", 0x8000#16, 0xFFFF#16⟩, ⟨"ENCODE", 0xA000#16, 0xFF00#16⟩,
   ⟨"RESERVED.110", 0xC000#16, 0xE000#16⟩, ⟨"RESERVED.111", 0xE000#16, 0xE000#16⟩,
   ⟨"RESERVED.RSV0", 0x0100#16, 0x0100#16⟩, ⟨"RESERVED.RSV1", 0x0200#16, 0x0200#16⟩,
   ⟨"RESERVED.RSV2", 0x0400#16, 0x0400#16⟩, ⟨"RESERVED.RSV3", 0x0800#16, 0x0800#16⟩,
   ⟨"RESERVED.RSV4", 0x1000#16, 0x1000#16⟩, ⟨"RESERVED.NOP_OPD", 0x0000#16, 0xFF00#16⟩,
   ⟨"RESERVED.DRAIN_OPD", 0x4000#16, 0xFF00#16⟩, ⟨"RESERVED.UNBIND_OPD", 0x8000#16, 0xFF00#16⟩]

/-- The first CMD16 row that matches a word. -/
def firstCommandRow (w : Word) : Option CommandRow := commandRows.find? (fun r => w &&& r.mask == r.pattern)

/-- A row of the FEED dispatch table of R83; `atLen` is its register condition, if it has one. -/
structure FeedRow where
  case : FeedCase
  pattern : Key
  mask : Key
  atLen : Option Bool
  deriving DecidableEq, Repr

/-- The dispatch rows of R83 in priority order; the header values stand in the low byte of three of them. -/
def feedRows (h1 h2 : Byte) : List FeedRow :=
  [⟨.sh1Hit, keyOf 0#3 h1, 0x7FF#11, none⟩, ⟨.sh1Miss, 0x000#11, 0x700#11, none⟩,
   ⟨.sh2Hit, keyOf 1#3 h2, 0x7FF#11, none⟩, ⟨.sh2Rehit, keyOf 1#3 h1, 0x7FF#11, none⟩,
   ⟨.sh2Miss, 0x100#11, 0x700#11, none⟩, ⟨.rlen, 0x200#11, 0x700#11, none⟩,
   ⟨.rbodyData, 0x300#11, 0x700#11, some false⟩, ⟨.rbodyZchk, 0x300#11, 0x700#11, some true⟩,
   ⟨.rchk, 0x400#11, 0x700#11, none⟩, ⟨.illegal, 0x500#11, 0x700#11, none⟩,
   ⟨.illegal, 0x600#11, 0x700#11, none⟩, ⟨.illegal, 0x700#11, 0x700#11, none⟩]

/-- The first dispatch row that a key and its register condition match. -/
def firstFeedRow (h1 h2 : Byte) (k : Key) (atLen : Bool) : Option FeedRow :=
  (feedRows h1 h2).find? fun r => k &&& r.mask == r.pattern && (r.atLen == none || r.atLen == some atLen)

/-- The instruction of an opcode-table word. A command word is one 16-bit word on the port, so a shorter `nbits`
leaves its high bits 0. `nbits = 11` is a dispatch key (R83), read at `cnt == len`, the condition that holds right
after reset. A number that has more bits than the code is none. -/
def decodeTableWord (nbits w : Nat) : Option Instr :=
  if nbits = 11 then (if w < 2048 then some (decodeKey (BitVec.ofNat 11 w) true) else none)
  else if w < 65536 then some (decode (BitVec.ofNat 16 w)) else none

end Sys2Proof
end

