-- ==== Sys2Proof/Machine/State.lean ====
section
/-! DEFINITION. The state of the machine: the decoder's registers (10_state.md R20), the two marks (R30), the
outputs of the last command (R27, R28), the host memories and streams the block reaches (20_memory.md R50), and
what the host is going to do (43_orchestrator.md R184). Plain data. -/

namespace Sys2Proof.Machine

/-- A host memory as the block knows it: the bytes written to it, by offset, offsets strictly rising. An unlisted
offset reads as no value: its byte is the host's (R34, R51; notes/assumptions/4.md). -/
abbrev Memory := List Host.Cell

/-- What the sticky fault mark records (R30; 60_exceptions.md R202, R203). -/
inductive FaultReason where
  /-- `REBIND_MIDFRAME`: BIND or UNBIND while `midframe()` held (R202). The reason only. -/
  | rebindMidframe
  /-- `ILLEGAL_STATE`: a FEED, or a micro-step of DRAIN, found state code 5, 6 or 7 (R203). The reason and the code. -/
  | illegalState (st : StCode)
  deriving DecidableEq, Repr

/-- What the sticky refusal mark records (R30; R204). -/
inductive RefusalReason where
  /-- `RESERVED_CMD`, and the word (R204). -/
  | reservedCmd (w : Word)
  deriving DecidableEq, Repr

/-- A write on the port to `DST`: `dst_off` and `dst_data` while `dst_we = 1` (R28). -/
structure PortWrite where
  off : Byte
  data : Byte
  deriving DecidableEq, Repr

/-- What the host may do between steps and between the micro-steps of a DRAIN (R184; 00_scope.md R11).
Reading `DST`, `SNK` or the registers changes nothing and needs no move. -/
inductive HostMove where
  /-- The transport delivers bytes: they join the tail of `SRC` (R53). -/
  | appendSrc (bytes : List Byte)
  /-- The host consumes the oldest `n` bytes of `SNK` (R54). -/
  | takeSnk (n : Nat)
  /-- The host writes one byte of `PAY` (R62). -/
  | writePay (off data : Byte)
  /-- The host writes one byte of `DST`; its duty is not to while the decoder is bound (R63, U3). -/
  | writeDst (off data : Byte)
  deriving DecidableEq, Repr

/-- What the host may do between two steps. -/
inductive HostEvent where
  | move (m : HostMove)
  /-- The host asserts reset (70_reset_and_hazards.md R230). -/
  | reset
  /-- The host chooses another base address: `DST` is from now on another buffer, of which these bytes are known (R51). -/
  | lendDst (known : List PortWrite)
  deriving DecidableEq, Repr

/-- One turn of the host: what it does before the step, then the command word it presents (R11, R79). -/
structure Turn where
  before : List HostEvent
  word : Word
  deriving DecidableEq, Repr

/-- The state. -/
structure State where
  /-- FSM state (R21). -/
  st : StCode
  /-- Running checksum accumulator (R22). -/
  acc : Byte
  /-- Expected payload length (R23). -/
  len : Byte
  /-- Payload bytes received in the current attempt (R24). -/
  cnt : Byte
  /-- A destination buffer is bound (R25). -/
  bound : Bool
  /-- Capacity of the bound buffer (R26). -/
  cap : Byte
  /-- The sticky `fault` mark (R30). -/
  faultMark : Option FaultReason
  /-- The sticky `refused` mark (R30). -/
  refusedMark : Option RefusalReason
  /-- The result of the last command (R27): an output of the step, written by every command, read by none. -/
  ready : Bool
  /-- What the last command wrote on the `DST` port, oldest first (R28): an output of the step. -/
  writes : List PortWrite
  /-- The destination buffer (R50, R51). -/
  dst : Memory
  /-- The payload buffer (R50, R52). -/
  pay : Memory
  /-- The receive stream, oldest byte first (R53). -/
  src : List Byte
  /-- The transmit stream, oldest byte first (R54). -/
  snk : List Byte
  /-- The turns the host is going to take, next one first (R11, R184). -/
  turns : List Turn
  /-- The host's moves in the gaps between the micro-steps of DRAINs, next gap first (R11, R133; D13). -/
  gaps : List (List HostMove)
  deriving DecidableEq, Repr

/-- The machine right after reset (R34, R230): the registers and marks as R34 gives them. The host's memories are
not known, and its streams and its schedule are empty until it moves (notes/assumptions/3.md). -/
def State.reset : State where
  st := Fsm.seekHeader1
  acc := 0x00#8
  len := 0x00#8
  cnt := 0x00#8
  bound := false
  cap := 0x00#8
  faultMark := none
  refusedMark := none
  ready := false
  writes := []
  dst := []
  pay := []
  src := []
  snk := []
  turns := []
  gaps := []

/-- Why the machine stops with a fault. The spec's own faults stop nothing: they are marks in the state (R206). -/
inductive Fault where
  /-- Raised by `step` when the host presents no command word: every step executes one command the host presents
  (R11), so there is no step to take. Safe: a stuck state, and the block waits. -/
  | noCommand
  deriving DecidableEq, Repr

/-- Why an instruction has no meaning. -/
inductive Refusal where
  /-- Raised by an arm of `exec` whose instruction has no meaning yet. Safe. -/
  | notModelled (mnemonic : String)
  /-- Raised by `exec` on `readme`: the opcode table's first row is a note and stands for no word. Safe. -/
  | tableNote
  /-- Raised by `exec` on a FEED case that R83 does not select for this state and byte: the case is no command, and
  FEED never runs it there. Safe. -/
  | caseNotSelected (c : FeedCase)
  /-- `ENCODE_TOO_LONG`: raised by the host layer's send for a payload of more than 255 bytes (R205). Safe. -/
  | encodeTooLong
  deriving DecidableEq, Repr

end Sys2Proof.Machine
end

