-- ==== Sys2Proof/Machine/Ops.lean ====
section
/-! DEFINITION. The operations on memory, marks, streams and the host's schedule that the meanings share. -/

namespace Sys2Proof.Machine

/-! ## Memory (20_memory.md R50, R51, R55, R56) -/

/-- Every access is one byte at an offset (R56). -/
def Memory.read : Memory → Nat → Option Byte
  | [], _ => none
  | (x, v) :: m, a => if x = a then some v else Memory.read m a

/-- Write one byte, keeping the offsets in rising order. -/
def Memory.write : Memory → Nat → Byte → Memory
  | [], a, b => [(a, b)]
  | (x, v) :: m, a, b =>
    if a < x then (a, b) :: (x, v) :: m
    else if a = x then (a, b) :: m
    else (x, v) :: Memory.write m a b

/-- Every offset listed is at least `lo` and below 256, and offsets rise strictly. -/
def Memory.wfFrom : Nat → Memory → Bool
  | _, [] => true
  | lo, (x, _) :: m => decide (lo ≤ x) && decide (x < 256) && Memory.wfFrom (x + 1) m

/-- The canonical form: offsets are 8 bits wide (R50) and rise strictly. An unlisted offset reads as no value, so no
entry can repeat it, and equal memories are equal lists. -/
def Memory.wf (m : Memory) : Bool := Memory.wfFrom 0 m

/-- The buffer of which these bytes are known, the later of two writes to an offset standing. -/
def Memory.ofWrites (known : List PortWrite) : Memory :=
  known.foldl (fun m w => Memory.write m w.off.toNat w.data) []

/-! ## A command's outputs -/

/-- `ready <- 0`, and nothing on the write port yet (R27, R28; 41_decoder.md R120). -/
def State.startCommand (s : State) : State := { s with ready := false, writes := [] }

/-- `MemWrite(DST, off, 1, v)`: the write goes out on the port and lands before the step ends (R28, R51). -/
def State.writeDstPort (off v : Byte) (s : State) : State :=
  { s with dst := Memory.write s.dst off.toNat v, writes := s.writes ++ [⟨off, v⟩] }

/-! ## Marks. The block takes no exception: it has no vector, no saved state and no return (60_exceptions.md R200,
R209). What stands in their place is the one operation that sets each sticky mark. -/

/-- `raise Fault(reason)`: the first reason to arise is kept (R206). -/
def State.raise (r : FaultReason) (s : State) : State :=
  { s with faultMark := s.faultMark.or (some r) }

/-- `refuse(RESERVED_CMD)`, with the word (R166, R204). The mark is sticky, and its first word is kept (DEDUCED from
R206, notes/assumptions/8.md). -/
def State.refuse (w : Word) (s : State) : State :=
  { s with refusedMark := s.refusedMark.or (some (.reservedCmd w)) }

/-- A refused command word (R166): the mark, `ready = 0`, and no other change. The machine goes on (R206). -/
def refuseWord (w : Word) (s : State) : Host.Outcome State Fault Refusal :=
  .next (s.startCommand.refuse w)

/-! ## Streams (R53, R54) -/

/-- `Append(SNK, bytes)`: one indivisible append (R58, R102). -/
def State.appendSnk (bytes : List Byte) (s : State) : State := { s with snk := s.snk ++ bytes }

/-- The transport's delivery to `SRC` (R53). -/
def State.appendSrc (bytes : List Byte) (s : State) : State := { s with src := s.src ++ bytes }

/-! ## Reset and the host's moves (R184, R230) -/

/-- Reset of a block in a running system: its registers and marks take the values of R34; `DST`, `PAY`, `SRC` and
`SNK` are the host's and stay (R230). -/
def State.resetBlock (s : State) : State :=
  { s with
    st := State.reset.st, acc := State.reset.acc, len := State.reset.len, cnt := State.reset.cnt,
    bound := State.reset.bound, cap := State.reset.cap,
    faultMark := State.reset.faultMark, refusedMark := State.reset.refusedMark }

/-- One move of the host (R184). -/
def applyMove (m : HostMove) (s : State) : State :=
  match m with
  | .appendSrc bytes => s.appendSrc bytes
  | .takeSnk n => { s with snk := s.snk.drop n }
  | .writePay off data => { s with pay := Memory.write s.pay off.toNat data }
  | .writeDst off data => { s with dst := Memory.write s.dst off.toNat data }

/-- The moves of one gap, in order. -/
def applyMoves (ms : List HostMove) (s : State) : State := ms.foldl (fun t m => applyMove m t) s

/-- One thing the host does between two steps (R184, R230). -/
def applyEvent (e : HostEvent) (s : State) : State :=
  match e with
  | .move m => applyMove m s
  | .reset => s.resetBlock
  | .lendDst known => { s with dst := Memory.ofWrites known }

/-- What the host does before it presents a word, in order. -/
def applyEvents (es : List HostEvent) (s : State) : State := es.foldl (fun t e => applyEvent e t) s

/-- The host's moves in the next gap of a DRAIN (R133); none if its schedule names no more. -/
def State.takeGap (s : State) : State :=
  match s.gaps with
  | [] => s
  | ms :: rest => applyMoves ms { s with gaps := rest }

/-- The bytes a move makes available in `SRC`. -/
def HostMove.supplies : HostMove → Nat
  | .appendSrc bytes => bytes.length
  | _ => 0

/-- The bytes the host makes available to a DRAIN (R135): those queued and those it will append in gaps. -/
def State.available (s : State) : Nat :=
  s.src.length + (s.gaps.flatten.map HostMove.supplies).sum

/-- The next turn of the host: what it does before the step, and the word it presents (R11, R79). -/
def State.present (s : State) : Option (Word × State) :=
  match s.turns with
  | [] => none
  | t :: rest => some (t.word, applyEvents t.before { s with turns := rest })

end Sys2Proof.Machine
end

