-- ==== Sys2Proof/Machine/Flags.lean ====
section
/-! DEFINITION. The conditions the block computes: it has no flags but the per-command `ready` (10_state.md R31), so
these are the checksum fold, `ready`'s conjunction, the write gate and the mid-frame test. -/

namespace Sys2Proof.Machine

/-- One step of the checksum fold (00_scope.md R8, 41_decoder.md R127). -/
def foldByte (c b : Byte) : Byte := c ^^^ b

/-- `ready` at a checksum byte: the checksum matches and a destination is bound (R129, R130, R131). -/
def State.frameReady (b : Byte) (s : State) : Bool := b == s.acc && s.bound

/-- A data byte is written iff a destination is bound and `cnt < cap`, on the values before the step (R128). -/
def State.dstGate (s : State) : Bool := s.bound && decide (s.cnt < s.cap)

/-- `midframe()`: a payload byte of the current attempt has been folded (42_control.md R163). -/
def State.midframe (s : State) : Bool :=
  (s.st == Fsm.readBody || s.st == Fsm.readChecksum) && decide (0#8 < s.cnt)

end Sys2Proof.Machine
end

