-- ==== Sys2Proof/Machine/Control.lean ====
section
/-! DEFINITION. The commands that move no bytes (42_control.md): NOP, BIND, UNBIND, and the refused words; and the
opcode table's note. -/

namespace Sys2Proof.Machine

/-- NOP (R160). -/
def execNop (s : State) : Host.Outcome State Fault Refusal := .next s.startCommand

/-- The fault of a rebinding in the middle of a frame, evaluated before the binding is written (R163, R202, R207). -/
def State.markRebind (s : State) : State := if s.midframe then s.raise .rebindMidframe else s

/-- BIND c (R161): it takes effect whether or not it faults; the FSM registers stay (R164). -/
def execBind (c : Byte) (s : State) : Host.Outcome State Fault Refusal :=
  .next { s.startCommand.markRebind with bound := true, cap := c }

/-- UNBIND (R162). -/
def execUnbind (s : State) : Host.Outcome State Fault Refusal :=
  .next { s.startCommand.markRebind with bound := false, cap := 0#8 }

/-! The refused words (R81, R166): each sets the mark with its own word. -/

def execReserved110 (low : BitVec 13) (s : State) : Host.Outcome State Fault Refusal := refuseWord (word110 low) s
def execReserved111 (low : BitVec 13) (s : State) : Host.Outcome State Fault Refusal := refuseWord (word111 low) s
def execReservedRsv0 (cmd : BitVec 3) (hi : BitVec 4) (opd : Byte) (s : State) : Host.Outcome State Fault Refusal :=
  refuseWord (wordRsv0 cmd hi opd) s
def execReservedRsv1 (cmd : BitVec 3) (hi : BitVec 3) (opd : Byte) (s : State) : Host.Outcome State Fault Refusal :=
  refuseWord (wordRsv1 cmd hi opd) s
def execReservedRsv2 (cmd : BitVec 3) (hi : BitVec 2) (opd : Byte) (s : State) : Host.Outcome State Fault Refusal :=
  refuseWord (wordRsv2 cmd hi opd) s
def execReservedRsv3 (cmd : BitVec 3) (hi : BitVec 1) (opd : Byte) (s : State) : Host.Outcome State Fault Refusal :=
  refuseWord (wordRsv3 cmd hi opd) s
def execReservedRsv4 (cmd : BitVec 3) (opd : Byte) (s : State) : Host.Outcome State Fault Refusal :=
  refuseWord (wordRsv4 cmd opd) s
def execReservedNopOpd (opd : Byte) (s : State) : Host.Outcome State Fault Refusal := refuseWord (commandWord 0#3 opd) s
def execReservedDrainOpd (opd : Byte) (s : State) : Host.Outcome State Fault Refusal := refuseWord (commandWord 2#3 opd) s
def execReservedUnbindOpd (opd : Byte) (s : State) : Host.Outcome State Fault Refusal := refuseWord (commandWord 4#3 opd) s

/-- The opcode table's first row is a note on how to read the table: it stands for no word (R79), so it does nothing
and is refused by name (notes/assumptions/1.md). -/
def execReadme (_s : State) : Host.Outcome State Fault Refusal := .refused .tableNote

end Sys2Proof.Machine
end

