-- ==== Sys2Proof/Machine/Operands.lean ====
section
/-! DEFINITION. Where a command's data comes from. The operands `b`, `c` and `L` are the operand field unchanged, 8
bits and unsigned (30_encoding.md R82), so they stand in the instructions as bytes; ENCODE's payload is a slice of
`PAY` (20_memory.md R52), and FEED's case comes from its dispatch key (R83). -/

namespace Sys2Proof.Machine

/-- `MemRead(PAY, off, 1)`: a byte the host wrote, or else the byte the host's buffer held all along (R34, R52;
notes/assumptions/5.md). -/
def State.payByte (s : State) (off : Nat) : Byte := (Memory.read s.pay off).getD (Config.payInit off)

/-- `PAY[0 .. L-1]`, read in offset order (R52, R100). -/
def State.payload (l : Byte) (s : State) : List Byte := (List.range l.toNat).map s.payByte

/-- The FEED case that the registers and the byte select (R83, R120). -/
def State.feedCase (b : Byte) (s : State) : FeedCase :=
  FeedCase.select Config.header1 Config.header2 s.st b (s.cnt == s.len)

end Sys2Proof.Machine
end

