-- ==== Sys2Proof/Machine/FrameDecoder.lean ====
section
/-! DEFINITION. The frame decoder FD (41_decoder.md): the body of each FEED case (R121 to R132), FEED (R120) and
DRAIN (R133). A register that a body does not name keeps its value (00_scope.md R10). -/

namespace Sys2Proof.Machine

/-! ## The case bodies -/

/-- `goto S` (R9). -/
def State.goto (st : StCode) (s : State) : State := { s with st := st }

/-- R121. -/
def bodySh1Hit (s : State) : State := s.goto Fsm.seekHeader2

/-- R122. -/
def bodySh1Miss (s : State) : State := s.goto Fsm.seekHeader1

/-- R123. -/
def bodySh2Hit (s : State) : State := s.goto Fsm.readLen

/-- R124: the byte, taken again in `SEEK_HEADER_1`, is a hit. -/
def bodySh2Rehit (s : State) : State := s.goto Fsm.seekHeader2

/-- R125: the byte, taken again in `SEEK_HEADER_1`, is a miss. -/
def bodySh2Miss (s : State) : State := s.goto Fsm.seekHeader1

/-- R126. -/
def bodyRlen (b : Byte) (s : State) : State :=
  { s with len := b, acc := b, cnt := 0#8, st := Fsm.readBody }

/-- The gated write of a data byte at offset `cnt` (R127, R128). -/
def State.storeData (b : Byte) (s : State) : State :=
  if s.dstGate then s.writeDstPort s.cnt b else s

/-- R127. The write gate is evaluated before `acc` and `cnt` change (60_exceptions.md R207). -/
def bodyRbodyData (b : Byte) (s : State) : State :=
  let t := s.storeData b
  { t with
    acc := foldByte s.acc b
    cnt := s.cnt + 1#8
    st := if s.cnt + 1#8 = s.len then Fsm.readChecksum else s.st }

/-- The checksum byte of an attempt, good or bad (R129, R130, R131). -/
def State.checkByte (b : Byte) (s : State) : State :=
  { s with ready := s.frameReady b, st := Fsm.seekHeader1 }

/-- R129: the checksum of a zero-length frame. -/
def bodyRbodyZchk (b : Byte) (s : State) : State := s.checkByte b

/-- R130. -/
def bodyRchk (b : Byte) (s : State) : State := s.checkByte b

/-- R132, R203: the mark, and no other change. -/
def bodyIllegal (s : State) : State := s.raise (.illegalState s.st)

/-! ## FEED -/

/-- The FEED step on one byte: `ready <- 0`, then the rule of the selected case (R120). -/
def feedStep (b : Byte) (s : State) : State :=
  let t := { s with ready := false }
  match s.feedCase b with
  | .sh1Hit => bodySh1Hit t
  | .sh1Miss => bodySh1Miss t
  | .sh2Hit => bodySh2Hit t
  | .sh2Rehit => bodySh2Rehit t
  | .sh2Miss => bodySh2Miss t
  | .rlen => bodyRlen b t
  | .rbodyData => bodyRbodyData b t
  | .rbodyZchk => bodyRbodyZchk b t
  | .rchk => bodyRchk b t
  | .illegal => bodyIllegal t

/-- FEED b (R120). -/
def execFeed (b : Byte) (s : State) : Host.Outcome State Fault Refusal := .next (feedStep b s.startCommand)

/-! ## The FEED cases as instructions. A case is not a command: it runs where R83 selects it, which is where FEED runs
it, and is refused by name elsewhere (notes/assumptions/2.md). -/

/-- Run a case's body if the registers and the byte select the case. -/
def runCase (c : FeedCase) (b : Byte) (body : State → State) (s : State) : Host.Outcome State Fault Refusal :=
  if s.feedCase b = c then .next (body s.startCommand) else .refused (.caseNotSelected c)

def execFeedSh1Hit (s : State) : Host.Outcome State Fault Refusal := runCase .sh1Hit Config.header1 bodySh1Hit s
def execFeedSh1Miss (b : Byte) (s : State) : Host.Outcome State Fault Refusal := runCase .sh1Miss b bodySh1Miss s
def execFeedSh2Hit (s : State) : Host.Outcome State Fault Refusal := runCase .sh2Hit Config.header2 bodySh2Hit s
def execFeedSh2Rehit (s : State) : Host.Outcome State Fault Refusal := runCase .sh2Rehit Config.header1 bodySh2Rehit s
def execFeedSh2Miss (b : Byte) (s : State) : Host.Outcome State Fault Refusal := runCase .sh2Miss b bodySh2Miss s
def execFeedRlen (b : Byte) (s : State) : Host.Outcome State Fault Refusal := runCase .rlen b (bodyRlen b) s
def execFeedRbodyData (b : Byte) (s : State) : Host.Outcome State Fault Refusal := runCase .rbodyData b (bodyRbodyData b) s
def execFeedRbodyZchk (b : Byte) (s : State) : Host.Outcome State Fault Refusal := runCase .rbodyZchk b (bodyRbodyZchk b) s
def execFeedRchk (b : Byte) (s : State) : Host.Outcome State Fault Refusal := runCase .rchk b (bodyRchk b) s

/-- FEED.ILLEGAL for one of the three codes its rows name (R83, R132). -/
def runIllegal (code : StCode) (b : Byte) (s : State) : Host.Outcome State Fault Refusal :=
  if s.st = code then runCase .illegal b bodyIllegal s else .refused (.caseNotSelected .illegal)

def execFeedIllegal5 (b : Byte) (s : State) : Host.Outcome State Fault Refusal := runIllegal 5#3 b s
def execFeedIllegal6 (b : Byte) (s : State) : Host.Outcome State Fault Refusal := runIllegal 6#3 b s
def execFeedIllegal7 (b : Byte) (s : State) : Host.Outcome State Fault Refusal := runIllegal 7#3 b s

/-! ## DRAIN -/

/-- The loop of R133 with at most `fuel` micro-steps. Each one pops a byte and feeds it; a completed frame ends the
loop, and otherwise the host may move. An illegal state code is found before the pop: the micro-step then sets the mark,
changes nothing else, and ends the DRAIN (R203, R207; DEDUCED, notes/assumptions/7.md). -/
def drainLoop : Nat → State → State
  | 0, s => s
  | fuel + 1, s =>
    match s.src with
    | [] => s
    | b :: rest =>
      if Fsm.legal s.st then
        let t := feedStep b { s with src := rest }
        if t.ready then t else drainLoop fuel t.takeGap
      else bodyIllegal s

/-- DRAIN (R133) as one step. It takes at most as many micro-steps as the host makes bytes available (R135). -/
def execDrain (s : State) : Host.Outcome State Fault Refusal := .next (drainLoop s.available s.startCommand)

end Sys2Proof.Machine
end

