-- ==== Sys2Proof/Machine/FrameEncoder.lean ====
section
/-! DEFINITION. The frame encoder FE (40_encoder.md): the pure function `encode` of R101 and the command of R100.
FE holds no state (10_state.md R29). -/

namespace Sys2Proof.Machine

/-- `fold(L, p)` (00_scope.md R8). -/
def checksumFold (l : Byte) (p : List Byte) : Byte := p.foldl foldByte l

/-- The bytes of a frame, in offset order, from its length field and its payload (30_encoding.md R70): both header
bytes, the length, the payload verbatim, and the checksum. -/
def frameBytes (l : Byte) (p : List Byte) : List Byte :=
  [Config.header1, Config.header2, l] ++ p ++ [checksumFold l p]

/-- `encode(p)` of R101, total on its domain. Encoding a longer payload has no meaning (R103): there is no frame then, and
neither a wrapped length nor a cut payload. -/
def frameOf (p : List Byte) : Option (List Byte) :=
  if p.length ≤ Config.maxLen then some (frameBytes (BitVec.ofNat 8 p.length) p) else none

/-- A well-formed frame (30_encoding.md R75). -/
def isFrame (bytes : List Byte) : Bool :=
  match bytes with
  | h1 :: h2 :: l :: rest =>
    h1 == Config.header1 && h2 == Config.header2 && rest.length == l.toNat + 1 &&
      rest.getLast? == some (checksumFold l rest.dropLast)
  | _ => false

/-- ENCODE L (R100): the frame of `PAY[0 .. L-1]`, whose length is `L` by construction (R82, R103), joins `SNK` in one append (R102); no decoder register, mark or byte
of `DST` changes (R104). -/
def execEncode (l : Byte) (s : State) : Host.Outcome State Fault Refusal :=
  .next (s.startCommand.appendSnk (frameBytes l (s.payload l)))

end Sys2Proof.Machine
end

