-- ==== Sys2Proof/Machine/Dispatch.lean ====
section
/-! DEFINITION. One arm per constructor of Instr. -/

namespace Sys2Proof.Machine

def exec (i : Instr) (s : State) : Host.Outcome State Fault Refusal :=
  match i with
  | .readme => Sys2Proof.Machine.execReadme s
  | .nop => Sys2Proof.Machine.execNop s
  | .feed b => Sys2Proof.Machine.execFeed b s
  | .drain => Sys2Proof.Machine.execDrain s
  | .bind c => Sys2Proof.Machine.execBind c s
  | .unbind => Sys2Proof.Machine.execUnbind s
  | .encode l => Sys2Proof.Machine.execEncode l s
  | .reserved110 low => Sys2Proof.Machine.execReserved110 low s
  | .reserved111 low => Sys2Proof.Machine.execReserved111 low s
  | .reservedRsv0 cmd hi opd => Sys2Proof.Machine.execReservedRsv0 cmd hi opd s
  | .reservedRsv1 cmd hi opd => Sys2Proof.Machine.execReservedRsv1 cmd hi opd s
  | .reservedRsv2 cmd hi opd => Sys2Proof.Machine.execReservedRsv2 cmd hi opd s
  | .reservedRsv3 cmd hi opd => Sys2Proof.Machine.execReservedRsv3 cmd hi opd s
  | .reservedRsv4 cmd opd => Sys2Proof.Machine.execReservedRsv4 cmd opd s
  | .reservedNopOpd opd => Sys2Proof.Machine.execReservedNopOpd opd s
  | .reservedDrainOpd opd => Sys2Proof.Machine.execReservedDrainOpd opd s
  | .reservedUnbindOpd opd => Sys2Proof.Machine.execReservedUnbindOpd opd s
  | .feedSh1Hit => Sys2Proof.Machine.execFeedSh1Hit s
  | .feedSh1Miss b => Sys2Proof.Machine.execFeedSh1Miss b s
  | .feedSh2Hit => Sys2Proof.Machine.execFeedSh2Hit s
  | .feedSh2Rehit => Sys2Proof.Machine.execFeedSh2Rehit s
  | .feedSh2Miss b => Sys2Proof.Machine.execFeedSh2Miss b s
  | .feedRlen b => Sys2Proof.Machine.execFeedRlen b s
  | .feedRbodyData b => Sys2Proof.Machine.execFeedRbodyData b s
  | .feedRbodyZchk b => Sys2Proof.Machine.execFeedRbodyZchk b s
  | .feedRchk b => Sys2Proof.Machine.execFeedRchk b s
  | .feedIllegal5 b => Sys2Proof.Machine.execFeedIllegal5 b s
  | .feedIllegal6 b => Sys2Proof.Machine.execFeedIllegal6 b s
  | .feedIllegal7 b => Sys2Proof.Machine.execFeedIllegal7 b s

end Sys2Proof.Machine
end

