-- ==== Sys2Proof/Machine/Step.lean ====
section
/-! DEFINITION. One step: the host's moves, then exactly one command that it presents (00_scope.md R11). -/

namespace Sys2Proof.Machine

/-- One step (R11). The host moves first, between steps; then the word it presents is decoded (60_exceptions.md R207:
word legality comes first) and executed. With no word presented there is no step. -/
def step (s : State) : Host.Outcome State Fault Refusal :=
  match s.present with
  | none => .fault .noCommand
  | some (w, t) => exec (decode w) t

/-- `s` with this word presented as the host's next turn, ahead of the turns it had. A dispatch key (`nbits = 11`) is
not presented by the host: its byte is, as a FEED, and its state code stands in `st` (R83, R120), with `cnt == len` in
`READ_BODY`, as `decodeTableWord` reads it. -/
def State.withFetchWord (s : State) (nbits w : Nat) : State :=
  if nbits = 11 then
    let k : Key := BitVec.ofNat 11 w
    { s with
      st := k.extractLsb' 8 3
      cnt := if k.extractLsb' 8 3 = Fsm.readBody then s.len else s.cnt
      turns := ⟨[], commandWord 1#3 (k.extractLsb' 0 8)⟩ :: s.turns }
  else { s with turns := ⟨[], BitVec.ofNat 16 w⟩ :: s.turns }

end Sys2Proof.Machine
end

