-- ==== Sys2Proof/Machine/Orchestrator.lean ====
section
/-! DEFINITION. The host layer of 43_orchestrator.md: the composite operations R181 to R183, spelled as the commands
they issue, beside the transport calls of R180 that reach no state of the block. They lie outside the block (00_scope.md
R6); no instruction calls them. -/

namespace Sys2Proof.Machine

/-- A transport operation the host performs (R180). An address is opaque to the block: a number stands for it. -/
inductive TransportCall where
  | begin (address : Nat)
  | write (bytes : List Byte)
  | finish
  | request (address count : Nat)
  deriving DecidableEq, Repr

/-- `PAY := P`: the payload's bytes from offset `off` on (R181); used where `P` ends at or below offset
255. R181 does not say what `PAY` holds past `P`; here the earlier bytes stay (DESIGN CHOICE, notes/assumptions/21.md). -/
def writePayload : Nat → List Byte → State → State
  | _, [], s => s
  | off, b :: p, s => writePayload (off + 1) p (applyMove (.writePay (BitVec.ofNat 8 off) b) s)

/-- Fire-and-forget send of `P` (R181). A slice of more than 255 bytes is refused before anything is written; it is
neither cut nor wrapped (R205, 40_encoder.md R103). -/
def sendPayload (p : List Byte) (s : State) : Host.Outcome State Fault Refusal :=
  if Config.maxLen < p.length then .refused .encodeTooLong
  else exec (.encode (BitVec.ofNat 8 p.length)) (writePayload 0 p s)

/-- The transport calls of a send of `P`: one write of its frame (R180, R181). A payload of more than 255 bytes is refused
(R205), here `none`, as `sendPayload` refuses it: it has no frame (40_encoder.md R103), so nothing is written. -/
def sendCalls (p : List Byte) : Option (List TransportCall) := (frameOf p).map fun f => [.write f]

/-- The transport calls of an addressed send; of it the block sees only the ENCODE of `sendPayload` (R182). For a payload
that is refused (R205) the spec is silent on `begin` and `end`; here the whole send is refused and makes none of its calls
(DESIGN CHOICE, notes/assumptions/19.md). -/
def addressedSendCalls (address : Nat) (p : List Byte) : Option (List TransportCall) :=
  (sendCalls p).map fun calls => [.begin address] ++ calls ++ [.finish]

/-- The transport call of an addressed request for a record of the bound capacity (R183, as D21 reads it). R183 gives no
size while no destination is bound; here the size is then what `cap` holds, which is 0 after reset and after UNBIND (DESIGN
CHOICE, notes/assumptions/20.md). -/
def requestCalls (address : Nat) (s : State) : List TransportCall := [.request address (s.cap.toNat + 4)]

/-- The DRAINs of an addressed request (R183): the transport delivers a batch, the host issues DRAIN, and issues it
again for each further batch until one returns `ready = 1`. The list ends where the transport reports that no more bytes
will come. The last DRAIN's `ready` is the result. -/
def requestDrains (batch : List Byte) (more : List (List Byte)) (s : State) : Host.Outcome State Fault Refusal :=
  match more with
  | [] => exec .drain (s.appendSrc batch)
  | next :: later =>
    match exec .drain (s.appendSrc batch) with
    | .next t => if t.ready then .next t else requestDrains next later t
    | .fault r => .fault r
    | .refused r => .refused r

end Sys2Proof.Machine
end

