-- ==== Sys2Proof/Safety.lean ====
section
/-! DEFINITION. The terms claims use: marked runs, the invariant between commands, and the results of a sequence of
FEEDs. -/

namespace Sys2Proof.Machine

/-- No fault and no refusal is recorded: the premise of every claim about a run (60_exceptions.md R206). -/
def State.unmarked (s : State) : Bool := s.faultMark.isNone && s.refusedMark.isNone

/-- What holds between commands on every run from reset. -/
structure State.Inv (s : State) : Prop where
  /-- `st` holds one of the five legal codes (R21). -/
  legal : Fsm.legal s.st = true
  /-- `cnt <= len` (R24). -/
  counted : s.cnt ≤ s.len
  /-- In `READ_BODY` with `cnt == len` the frame is a zero-length one (R129). -/
  body : s.st = Fsm.readBody → s.cnt = s.len → s.len = 0#8 ∧ s.acc = 0#8
  /-- In `READ_CHECKSUM` all `len > 0` payload bytes have been received (R77). -/
  checksum : s.st = Fsm.readChecksum → s.cnt = s.len ∧ s.len ≠ 0#8
  /-- An unbound decoder has capacity 0 (R34, R162). -/
  unbound : s.bound = false → s.cap = 0#8
  /-- The memories are in canonical form. -/
  dstWf : Memory.wf s.dst = true
  payWf : Memory.wf s.pay = true

/-- `FEEDS b0 b1 ... bn` (30_encoding.md R84): one FEED per byte; the `ready` of each, and the last state. -/
def runFeeds : List Byte → State → Option (List Bool × State)
  | [], s => some ([], s)
  | b :: bs, s =>
    match exec (.feed b) s with
    | .next t => (runFeeds bs t).map fun r => (t.ready :: r.1, r.2)
    | _ => none

/-- An instruction that is refused as this word (R166, R204): the mark is set with the word, or stays set if it was; no
other change but the command's outputs. -/
def RefusesWord (i : Instr) (w : Word) : Prop :=
  ∀ s : State,
    (s.refusedMark = none →
      exec i s = .next { s with refusedMark := some (.reservedCmd w), ready := false, writes := [] }) ∧
    (∀ r, s.refusedMark = some r →
      ∃ r', exec i s = .next { s with refusedMark := some r', ready := false, writes := [] })

/-- The commands of R80, without the refused words, the FEED cases and the table's note. -/
def isCommand : Instr → Bool
  | .nop | .feed _ | .drain | .bind _ | .unbind | .encode _ => true
  | _ => false

/-- The writes a payload of these bytes makes on the `DST` port of a buffer of this capacity (R137). -/
def payloadWrites (cap : Byte) (p : List Byte) : List PortWrite :=
  (p.take cap.toNat).mapIdx fun i b => ⟨BitVec.ofNat 8 i, b⟩

end Sys2Proof.Machine
end

