-- ==== Sys2Proof/Certificates/Slice0/Obligations.lean ====
section
/-! DEFINITION. The statements for the provers, from the numbered rules of the spec. Where a statement gives the next
state as `{ s with … }`, every register, mark, stream, memory byte and host schedule it does not name is unchanged. -/

open Sys2Proof Sys2Proof.Machine

/-! ## Reset, the step and the host -/

/-- R230, R34. Reset of a running block, and the state after reset. -/
def Obligations.ResetSetsRegistersAndMarks : Prop :=
  (∀ s : State, applyEvent .reset s =
    { s with st := 0#3, acc := 0x00#8, len := 0x00#8, cnt := 0x00#8, bound := false, cap := 0x00#8,
             faultMark := none, refusedMark := none }) ∧
  State.reset.st = 0#3 ∧ State.reset.acc = 0x00#8 ∧ State.reset.len = 0x00#8 ∧ State.reset.cnt = 0x00#8 ∧
  State.reset.bound = false ∧ State.reset.cap = 0x00#8 ∧
  State.reset.faultMark = none ∧ State.reset.refusedMark = none

/-- The invariant holds after reset, and no mark is set (R34). -/
def Obligations.ResetMeetsInvariant : Prop := State.reset.Inv ∧ State.reset.unmarked = true

/-- R21, R24, R77, R129, R162: every step keeps the invariant, from every state that meets it, whatever the host does
before the step and in the gaps of a DRAIN. -/
def Obligations.EveryStepKeepsInvariant : Prop :=
  ∀ s t : State, s.Inv → step s = .next t → t.Inv

/-- R11: a step is what the host does between steps, and then exactly the one command it presents. -/
def Obligations.StepRunsThePresentedInstruction : Prop :=
  ∀ (s : State) (before : List HostEvent) (w : Word) (rest : List Turn) (i : Instr),
    s.turns = ⟨before, w⟩ :: rest → decode w = i →
      step s = exec i (applyEvents before { s with turns := rest })

/-- With no command presented there is no step (Fault.noCommand, notes/assumptions/6.md). -/
def Obligations.StepWaitsForACommand : Prop :=
  ∀ s : State, s.turns = [] → step s = .fault .noCommand

/-- R53, R54, R184: what the host does in a gap leaves every register, mark and output alone, only adds at the tail of
`SRC`, and only takes from the head of `SNK`. The gap's moves are the model's (notes/assumptions/11.md). -/
def Obligations.HostMovesLeaveTheBlockAlone : Prop :=
  ∀ (ms : List HostMove) (s : State), ∃ (bytes : List Byte) (n : Nat) (d p : Memory),
    applyMoves ms s = { s with src := s.src ++ bytes, snk := s.snk.drop n, dst := d, pay := p }

/-- Every command of the port completes, from every state: the 65,536 words all have a next state (R81, R135, R206). -/
def Obligations.EveryWordCompletes : Prop :=
  ∀ (w : Word) (s : State), ∃ t, exec (decode w) s = .next t

/-! ## Encodings -/

/-- Words and keys written out from R80, R81 and R83 decode to what they stand for. -/
def Obligations.WrittenOutWordsDecode : Prop :=
  decode 0b0000000000000000#16 = .nop ∧ decode 0b0010000010000101#16 = .feed 0x85#8 ∧
  decode 0b0100000000000000#16 = .drain ∧ decode 0b0110000000000010#16 = .bind 2#8 ∧
  decode 0b1000000000000000#16 = .unbind ∧ decode 0b1010000011111111#16 = .encode 255#8 ∧
  decode 0b0110000100000000#16 = .reservedRsv0 3#3 0#4 0#8 ∧
  decodeKey 0b00110000101#11 false = .feedSh2Hit ∧ decodeKey 0b10000000110#11 false = .feedRchk 0x06#8

/-- Decoding what the encoder writes gives back the instruction, for every well-formed one and every operand. -/
def Obligations.DecodeInvertsEncode : Prop :=
  ∀ i : Instr, i.wf = true → decodeCode (encode i) = some i

/-- R81: the decoder of command words is total, and every word is the encoding of the one well-formed instruction it
is read as. -/
def Obligations.EveryWordIsItsInstructionsEncoding : Prop :=
  ∀ w : Word, (decode w).wf = true ∧ encode (decode w) = .command w

/-- The decoder reads every word as the first row of the opcode table that matches it, by priority and then by place
(the place is the model's choice, notes/assumptions/9.md). -/
def Obligations.DecodeFollowsTheCommandTable : Prop :=
  ∀ w : Word, (firstCommandRow w).map (·.mnemonic) = some (decode w).mnemonic

/-- R80, R81: the three kinds of refused word, and the command each other word is, with its operand. -/
def Obligations.WordsAreCommandsOrRefused : Prop :=
  ∀ w : Word,
    let refused := cmdOf w = 6#3 ∨ cmdOf w = 7#3 ∨ rsvOf w ≠ 0#5 ∨
      ((cmdOf w = 0#3 ∨ cmdOf w = 2#3 ∨ cmdOf w = 4#3) ∧ opdOf w ≠ 0#8)
    (refused → isCommand (decode w) = false ∧ RefusesWord (decode w) w) ∧
    (¬ refused →
      (cmdOf w = 0#3 → decode w = .nop) ∧ (cmdOf w = 1#3 → decode w = .feed (opdOf w)) ∧
      (cmdOf w = 2#3 → decode w = .drain) ∧ (cmdOf w = 3#3 → decode w = .bind (opdOf w)) ∧
      (cmdOf w = 4#3 → decode w = .unbind) ∧ (cmdOf w = 5#3 → decode w = .encode (opdOf w)))

/-- R83: the first matching row of the dispatch table, for any two header values; the hit wins if they are equal; and
FEED's key is made of its state and its byte. -/
def Obligations.FeedCaseIsTheFirstMatchingRow : Prop :=
  (∀ (h1 h2 : Byte) (st : StCode) (b : Byte) (atLen : Bool),
    (firstFeedRow h1 h2 (keyOf st b) atLen).map (·.case) = some (FeedCase.select h1 h2 st b atLen)) ∧
  (∀ (h : Byte) (atLen : Bool), FeedCase.select h h 1#3 h atLen = .sh2Hit) ∧
  (∀ (b : Byte) (s : State),
    (firstFeedRow 0x06#8 0x85#8 (keyOf s.st b) (decide (s.cnt = s.len))).map (·.case) = some (s.feedCase b))

/-- The opcode table's note is no instruction: it stops, and no word and no key stands for it. -/
def Obligations.TableNoteIsNoInstruction : Prop :=
  (∀ s : State, exec .readme s = .refused .tableNote) ∧
  (∀ w : Word, decode w ≠ .readme) ∧ (∀ (k : Key) (atLen : Bool), decodeKey k atLen ≠ .readme)

/-! ## FEED, case by case -/

/-- R120: FEED runs the case that `{st, b}` and `cnt == len` select, always completes, consumes no byte of `SRC`, and
faults only with `ILLEGAL_STATE`. -/
def Obligations.FeedRunsItsSelectedCase : Prop :=
  (∀ b : Byte, encode (.feed b) = .command (0x2000#16 ||| b.setWidth 16)) ∧
  ∀ (b : Byte) (s : State), ∃ t,
    exec (.feed b) s = .next t ∧ exec (decodeKey (keyOf s.st b) (decide (s.cnt = s.len))) s = .next t ∧
    t.src = s.src ∧ t.refusedMark = s.refusedMark ∧
    (Fsm.legal s.st = true → t.faultMark = s.faultMark) ∧
    (Fsm.legal s.st = false → t.faultMark = s.faultMark.or (some (.illegalState s.st)))

/-- The model's choice (notes/assumptions/2.md): a case that R83 does not select is refused by name. -/
def Obligations.UnselectedCasesStop : Prop :=
  ∀ (b : Byte) (s : State),
    (s.feedCase 0x06#8 ≠ .sh1Hit → exec .feedSh1Hit s = .refused (.caseNotSelected .sh1Hit)) ∧
    (s.feedCase b ≠ .sh1Miss → exec (.feedSh1Miss b) s = .refused (.caseNotSelected .sh1Miss)) ∧
    (s.feedCase 0x85#8 ≠ .sh2Hit → exec .feedSh2Hit s = .refused (.caseNotSelected .sh2Hit)) ∧
    (s.feedCase 0x06#8 ≠ .sh2Rehit → exec .feedSh2Rehit s = .refused (.caseNotSelected .sh2Rehit)) ∧
    (s.feedCase b ≠ .sh2Miss → exec (.feedSh2Miss b) s = .refused (.caseNotSelected .sh2Miss)) ∧
    (s.feedCase b ≠ .rlen → exec (.feedRlen b) s = .refused (.caseNotSelected .rlen)) ∧
    (s.feedCase b ≠ .rbodyData → exec (.feedRbodyData b) s = .refused (.caseNotSelected .rbodyData)) ∧
    (s.feedCase b ≠ .rbodyZchk → exec (.feedRbodyZchk b) s = .refused (.caseNotSelected .rbodyZchk)) ∧
    (s.feedCase b ≠ .rchk → exec (.feedRchk b) s = .refused (.caseNotSelected .rchk)) ∧
    (s.st ≠ 5#3 → exec (.feedIllegal5 b) s = .refused (.caseNotSelected .illegal)) ∧
    (s.st ≠ 6#3 → exec (.feedIllegal6 b) s = .refused (.caseNotSelected .illegal)) ∧
    (s.st ≠ 7#3 → exec (.feedIllegal7 b) s = .refused (.caseNotSelected .illegal))

/-- R121. -/
def Obligations.SeekHeader1HitGoesToSeekHeader2 : Prop :=
  (∀ (k : Key) (atLen : Bool), k &&& 0x7FF#11 = 0x006#11 → decodeKey k atLen = .feedSh1Hit) ∧
  ∀ s : State, s.st = Fsm.seekHeader1 →
    let t := { s with st := Fsm.seekHeader2, ready := false, writes := [] }
    exec (.feed 0x06#8) s = .next t ∧ exec .feedSh1Hit s = .next t

/-- R122. -/
def Obligations.SeekHeader1MissStays : Prop :=
  (∀ (k : Key) (atLen : Bool), k &&& 0x700#11 = 0x000#11 → k &&& 0x7FF#11 ≠ 0x006#11 →
    decodeKey k atLen = .feedSh1Miss (k.setWidth 8)) ∧
  ∀ (b : Byte) (s : State), s.st = Fsm.seekHeader1 → b ≠ 0x06#8 →
    let t := { s with st := Fsm.seekHeader1, ready := false, writes := [] }
    exec (.feed b) s = .next t ∧ exec (.feedSh1Miss b) s = .next t

/-- R123. -/
def Obligations.SeekHeader2HitGoesToReadLen : Prop :=
  (∀ (k : Key) (atLen : Bool), k &&& 0x7FF#11 = 0x185#11 → decodeKey k atLen = .feedSh2Hit) ∧
  ∀ s : State, s.st = Fsm.seekHeader2 →
    let t := { s with st := Fsm.readLen, ready := false, writes := [] }
    exec (.feed 0x85#8) s = .next t ∧ exec .feedSh2Hit s = .next t

/-- R124, with its corner case: any run of `HEADER_1` bytes and then `HEADER_2` reaches `READ_LEN`. -/
def Obligations.SeekHeader2RehitStays : Prop :=
  (∀ (k : Key) (atLen : Bool), k &&& 0x7FF#11 = 0x106#11 → decodeKey k atLen = .feedSh2Rehit) ∧
  (∀ s : State, s.st = Fsm.seekHeader2 →
    let t := { s with st := Fsm.seekHeader2, ready := false, writes := [] }
    exec (.feed 0x06#8) s = .next t ∧ exec .feedSh2Rehit s = .next t) ∧
  ∀ (n : Nat) (s : State), s.st = Fsm.seekHeader2 →
    runFeeds (List.replicate n 0x06#8 ++ [0x85#8]) s =
      some (List.replicate (n + 1) false, { s with st := Fsm.readLen, ready := false, writes := [] })

/-- R125. -/
def Obligations.SeekHeader2MissGoesBack : Prop :=
  (∀ (k : Key) (atLen : Bool), k &&& 0x700#11 = 0x100#11 → k &&& 0x7FF#11 ≠ 0x185#11 → k &&& 0x7FF#11 ≠ 0x106#11 →
    decodeKey k atLen = .feedSh2Miss (k.setWidth 8)) ∧
  ∀ (b : Byte) (s : State), s.st = Fsm.seekHeader2 → b ≠ 0x85#8 → b ≠ 0x06#8 →
    let t := { s with st := Fsm.seekHeader1, ready := false, writes := [] }
    exec (.feed b) s = .next t ∧ exec (.feedSh2Miss b) s = .next t

/-- R126. -/
def Obligations.ReadLenStartsTheBody : Prop :=
  (∀ (k : Key) (atLen : Bool), k &&& 0x700#11 = 0x200#11 → decodeKey k atLen = .feedRlen (k.setWidth 8)) ∧
  ∀ (b : Byte) (s : State), s.st = Fsm.readLen →
    let t := { s with len := b, acc := b, cnt := 0#8, st := Fsm.readBody, ready := false, writes := [] }
    exec (.feed b) s = .next t ∧ exec (.feedRlen b) s = .next t

/-- R127, R128: a data byte is folded and counted, and written at offset `cnt` iff a destination is bound and `cnt < cap`;
every other byte of `DST` reads as before. That `PAY` stays whatever the write to `DST` is the model's choice
(notes/assumptions/18.md). -/
def Obligations.DataByteIsFoldedCountedAndWritten : Prop :=
  (∀ k : Key, k &&& 0x700#11 = 0x300#11 → decodeKey k false = .feedRbodyData (k.setWidth 8)) ∧
  ∀ (b : Byte) (s : State), s.st = Fsm.readBody → s.cnt ≠ s.len → ∃ (d : Memory) (ws : List PortWrite),
    let t := { s with
      acc := s.acc ^^^ b, cnt := s.cnt + 1#8,
      st := if s.cnt + 1#8 = s.len then Fsm.readChecksum else Fsm.readBody,
      dst := d, writes := ws, ready := false }
    exec (.feed b) s = .next t ∧ exec (.feedRbodyData b) s = .next t ∧
    (s.bound = true ∧ s.cnt < s.cap → ws = [⟨s.cnt, b⟩] ∧ Memory.read d s.cnt.toNat = some b) ∧
    (¬ (s.bound = true ∧ s.cnt < s.cap) → ws = [] ∧ Memory.read d s.cnt.toNat = Memory.read s.dst s.cnt.toNat) ∧
    (∀ a, a ≠ s.cnt.toNat → Memory.read d a = Memory.read s.dst a)

/-- R128: of all FEEDs, exactly a data byte with a destination bound and `cnt < cap` is written. -/
def Obligations.FeedWritesExactlyGatedDataBytes : Prop :=
  ∀ (b : Byte) (s : State), ∃ t, exec (.feed b) s = .next t ∧
    t.writes = if s.st = Fsm.readBody ∧ s.cnt ≠ s.len ∧ s.bound = true ∧ s.cnt < s.cap then [⟨s.cnt, b⟩] else []

/-- R129. -/
def Obligations.ZeroLengthChecksumByte : Prop :=
  (∀ k : Key, k &&& 0x700#11 = 0x300#11 → decodeKey k true = .feedRbodyZchk (k.setWidth 8)) ∧
  (∀ (b : Byte) (s : State), s.st = Fsm.readBody → s.cnt = s.len →
    let t := { s with st := Fsm.seekHeader1, ready := decide (b = s.acc ∧ s.bound = true), writes := [] }
    exec (.feed b) s = .next t ∧ exec (.feedRbodyZchk b) s = .next t) ∧
  (∀ s : State, s.Inv → s.st = Fsm.readBody → s.cnt = s.len → s.acc = 0x00#8 ∧ s.len = 0x00#8)

/-- R130. -/
def Obligations.ChecksumByteEndsTheAttempt : Prop :=
  (∀ (k : Key) (atLen : Bool), k &&& 0x700#11 = 0x400#11 → decodeKey k atLen = .feedRchk (k.setWidth 8)) ∧
  ∀ (b : Byte) (s : State), s.st = Fsm.readChecksum →
    let t := { s with st := Fsm.seekHeader1, ready := decide (b = s.acc ∧ s.bound = true), writes := [] }
    exec (.feed b) s = .next t ∧ exec (.feedRchk b) s = .next t

/-- R132, R203: the mark records the code, the first reason to arise is kept (R206), and nothing else changes. -/
def Obligations.IllegalStateSetsTheFaultMark : Prop :=
  ∀ (b : Byte) (s : State),
    let t := { s with faultMark := s.faultMark.or (some (.illegalState s.st)), ready := false, writes := [] }
    (s.st = 5#3 → exec (.feed b) s = .next t ∧ exec (.feedIllegal5 b) s = .next t) ∧
    (s.st = 6#3 → exec (.feed b) s = .next t ∧ exec (.feedIllegal6 b) s = .next t) ∧
    (s.st = 7#3 → exec (.feed b) s = .next t ∧ exec (.feedIllegal7 b) s = .next t)

/-- R131: `ready` is 1 exactly at a checksum byte that matches while a destination is bound. -/
def Obligations.ReadyNeedsAMatchAndABinding : Prop :=
  ∀ (b : Byte) (s : State), ∃ t, exec (.feed b) s = .next t ∧
    (t.ready = true ↔
      (s.st = Fsm.readChecksum ∨ (s.st = Fsm.readBody ∧ s.cnt = s.len)) ∧ b = s.acc ∧ s.bound = true)

/-! ## DRAIN -/

/-- R134. -/
def Obligations.DrainOfAnEmptySourceIsANoOp : Prop :=
  ∀ s : State, s.src = [] → exec .drain s = .next { s with ready := false, writes := [] }

/-- R133: a DRAIN of nothing ends at once; any other is a FEED of the oldest byte, and then, unless that completed a
frame, the host's moves in the gap and the rest of the DRAIN. That the moves come from the schedule `gaps`, one entry for
each gap, is the model's choice (notes/assumptions/11.md). `s` need not be reachable, but its state code is legal. -/
def Obligations.DrainFeedsTheOldestByteFirst : Prop :=
  encode .drain = .command 0x4000#16 ∧
  (∀ s : State, s.src = [] → exec .drain s = .next { s with ready := false, writes := [] }) ∧
  ∀ (s u : State) (b : Byte) (rest : List Byte), s.src = b :: rest → Fsm.legal s.st = true →
    exec (.feed b) { s with src := rest } = .next u →
    (u.ready = true → exec .drain s = .next u) ∧
    (u.ready = false → ∃ t, exec .drain u.takeGap = .next t ∧
      exec .drain s = .next { t with writes := u.writes ++ t.writes })

/-- R135, R133: a DRAIN always ends, with a frame completed or nothing left in `SRC`, from every legal state code. -/
def Obligations.DrainEndsWhenDone : Prop :=
  ∀ s : State, Fsm.legal s.st = true → ∃ t, exec .drain s = .next t ∧ (t.ready = true ∨ t.src = [])

/-- The model's reading (notes/assumptions/7.md) of R203: a DRAIN that finds an illegal state code and a byte in `SRC`
sets the mark, pops nothing and ends. -/
def Obligations.DrainInAnIllegalStateMarksAndEnds : Prop :=
  ∀ s : State, Fsm.legal s.st = false → s.src ≠ [] →
    exec .drain s = .next { s with
      faultMark := s.faultMark.or (some (.illegalState s.st)), ready := false, writes := [] }

/-- R133, R236: with no host move in between, a DRAIN is the FEEDs of the bytes up to the first completion, and the
bytes after it stay in `SRC`. -/
def Obligations.DrainStopsAtTheFirstCompletion : Prop :=
  ∀ (s t : State) (p rest : List Byte) (n : Nat), s.gaps = [] → Fsm.legal s.st = true → s.src = p ++ rest →
    runFeeds p { s with src := rest } = some (List.replicate n false ++ [true], t) →
    ∃ ws, exec .drain s = .next { t with writes := ws } ∧ t.src = rest

/-- R133, R137, R138: a DRAIN of a frame from `SEEK_HEADER_1` or `SEEK_HEADER_2` completes it and leaves the bytes after
it; its writes are the first `min(len, cap)` payload bytes, each once, in order, at offsets from 0. That `PAY` stays whatever the
write to `DST` is the model's choice (notes/assumptions/18.md). -/
def Obligations.DrainReceivesAFrame : Prop :=
  ∀ (s : State) (p f rest : List Byte), s.gaps = [] → s.bound = true → frameOf p = some f →
    s.st = Fsm.seekHeader1 ∨ s.st = Fsm.seekHeader2 → s.src = f ++ rest →
    ∃ d, exec .drain s = .next { s with
        st := Fsm.seekHeader1, len := BitVec.ofNat 8 p.length, cnt := BitVec.ofNat 8 p.length,
        acc := checksumFold (BitVec.ofNat 8 p.length) p, src := rest, ready := true,
        writes := payloadWrites s.cap p, dst := d } ∧
      (∀ (a : Nat) (h : a < p.length), a < s.cap.toNat → Memory.read d a = some p[a]) ∧
      (∀ a, p.length ≤ a ∨ s.cap.toNat ≤ a → Memory.read d a = Memory.read s.dst a)

/-! ## The frame encoder -/

/-- R100, R101, R102, R104: ENCODE appends the frame of the first `L` bytes of `PAY` at once and changes nothing else. A
byte of `PAY` that the host has not written is any value (notes/assumptions/5.md): `p` agrees with `PAY` wherever `PAY`
is known. -/
def Obligations.EncodeAppendsTheFrameOfThePayload : Prop :=
  (∀ l : Byte, encode (.encode l) = .command (0xA000#16 ||| l.setWidth 16)) ∧
  ∀ (l : Byte) (s : State), ∃ p : List Byte,
    p.length = l.toNat ∧ (∀ (i : Nat) (h : i < p.length) (v : Byte), Memory.read s.pay i = some v → p[i] = v) ∧
    exec (.encode l) s = .next { s with
      snk := s.snk ++ ([0x06#8, 0x85#8, l] ++ p ++ [p.foldl (· ^^^ ·) l]), ready := false, writes := [] }

/-- R105, R73, R75, R103: a payload of at most 255 bytes has a frame, which is well formed, has `L + 4` bytes, holds its
length and payload, and determines them; a longer one has none. -/
def Obligations.FramesAreWellFormedAndInjective : Prop :=
  (∀ p : List Byte, p.length ≤ 255 → ∃ f, frameOf p = some f ∧
    isFrame f = true ∧ f.length = p.length + 4 ∧ f.take 2 = [0x06#8, 0x85#8] ∧
    f[2]? = some (BitVec.ofNat 8 p.length) ∧ (f.drop 3).take p.length = p ∧
    f.getLast? = some (checksumFold (BitVec.ofNat 8 p.length) p)) ∧
  (∀ p : List Byte, 255 < p.length → frameOf p = none) ∧
  ∀ p q : List Byte, p.length ≤ 255 → q.length ≤ 255 → frameOf p = frameOf q → p = q

/-- R75: a well-formed frame is the encoding of a payload. -/
def Obligations.WellFormedFramesAreEncodings : Prop :=
  ∀ f : List Byte, isFrame f = true → ∃ p : List Byte, p.length ≤ 255 ∧ frameOf p = some f

/-- R8: the fold as a loop, its value on nothing, and that its order does not matter. -/
def Obligations.FoldDoesNotDependOnOrder : Prop :=
  (∀ l : Byte, checksumFold l [] = l) ∧
  (∀ (l b : Byte) (p : List Byte), checksumFold l (b :: p) = checksumFold (l ^^^ b) p) ∧
  ∀ (l : Byte) (p q : List Byte), p.Perm q → checksumFold l p = checksumFold l q

/-- R205, R181: the host layer's send refuses a payload of more than 255 bytes, and otherwise puts it in `PAY` and
appends its frame; a refused send makes no transport call, and another writes that frame once, between `begin` and `end` if
it is addressed. The host layer is the model's choice (notes/assumptions/15.md), and so is that a refused addressed send
makes no `begin` and no `end` (notes/assumptions/19.md), and that `PAY` keeps its bytes past the payload
(notes/assumptions/21.md). -/
def Obligations.SendRefusesOrAppendsTheFrame : Prop :=
  ∀ (p : List Byte) (s : State) (address : Nat),
    (255 < p.length →
      sendPayload p s = .refused .encodeTooLong ∧ sendCalls p = none ∧ addressedSendCalls address p = none) ∧
    (p.length ≤ 255 → ∃ d f, frameOf p = some f ∧ sendPayload p s =
        .next { s with snk := s.snk ++ f, pay := d, ready := false, writes := [] } ∧
      sendCalls p = some [.write f] ∧ addressedSendCalls address p = some [.begin address, .write f, .finish] ∧
      (∀ (i : Nat) (h : i < p.length), Memory.read d i = some p[i]) ∧
      (∀ i, p.length ≤ i → Memory.read d i = Memory.read s.pay i))

/-- R183: an addressed request asks for `cap + 4` bytes; it always completes, with the first DRAIN that completes a frame or
with the DRAIN of the last batch. The host layer, with the batches as a list whose end is the transport's report, is the
model's choice (notes/assumptions/15.md), and so is the size asked for while unbound (notes/assumptions/20.md). -/
def Obligations.RequestEndsAtTheFirstCompletion : Prop :=
  (∀ (address : Nat) (s : State), requestCalls address s = [.request address (s.cap.toNat + 4)]) ∧
  (∀ (batch : List Byte) (s : State), requestDrains batch [] s = exec .drain (s.appendSrc batch)) ∧
  (∀ (batch next : List Byte) (later : List (List Byte)) (s t : State),
    exec .drain (s.appendSrc batch) = .next t →
    requestDrains batch (next :: later) s = if t.ready then .next t else requestDrains next later t) ∧
  ∀ (batch : List Byte) (more : List (List Byte)) (s : State), ∃ t, requestDrains batch more s = .next t

/-! ## NOP, BIND, UNBIND and the refused words -/

/-- R160. -/
def Obligations.NopChangesNothing : Prop :=
  encode .nop = .command 0x0000#16 ∧
  ∀ s : State, exec .nop s = .next { s with ready := false, writes := [] }

/-- R161, R163, R202: BIND takes effect whether or not it is a mid-frame rebinding; the FSM registers stay. -/
def Obligations.BindSetsTheBinding : Prop :=
  (∀ c : Byte, encode (.bind c) = .command (0x6000#16 ||| c.setWidth 16)) ∧
  ∀ (c : Byte) (s : State),
    let midframe := (s.st = Fsm.readBody ∨ s.st = Fsm.readChecksum) ∧ s.cnt ≠ 0#8
    (¬ midframe → exec (.bind c) s = .next { s with bound := true, cap := c, ready := false, writes := [] }) ∧
    (midframe → exec (.bind c) s = .next { s with
      bound := true, cap := c, faultMark := s.faultMark.or (some .rebindMidframe), ready := false, writes := [] })

/-- R162, R163, R202. -/
def Obligations.UnbindClearsTheBinding : Prop :=
  encode .unbind = .command 0x8000#16 ∧
  ∀ s : State,
    let midframe := (s.st = Fsm.readBody ∨ s.st = Fsm.readChecksum) ∧ s.cnt ≠ 0#8
    (¬ midframe → exec .unbind s = .next { s with bound := false, cap := 0#8, ready := false, writes := [] }) ∧
    (midframe → exec .unbind s = .next { s with
      bound := false, cap := 0#8, faultMark := s.faultMark.or (some .rebindMidframe), ready := false, writes := [] })

/-- R166, R204: each refused row, with its word put together by shifts and masks. -/
def Obligations.RefusedRowsRecordTheirWord : Prop :=
  (∀ low, RefusesWord (.reserved110 low) (0xC000#16 ||| low.setWidth 16)) ∧
  (∀ low, RefusesWord (.reserved111 low) (0xE000#16 ||| low.setWidth 16)) ∧
  (∀ cmd hi opd, RefusesWord (.reservedRsv0 cmd hi opd)
    (cmd.setWidth 16 <<< 13 ||| hi.setWidth 16 <<< 9 ||| 0x0100#16 ||| opd.setWidth 16)) ∧
  (∀ cmd hi opd, RefusesWord (.reservedRsv1 cmd hi opd)
    (cmd.setWidth 16 <<< 13 ||| hi.setWidth 16 <<< 10 ||| 0x0200#16 ||| opd.setWidth 16)) ∧
  (∀ cmd hi opd, RefusesWord (.reservedRsv2 cmd hi opd)
    (cmd.setWidth 16 <<< 13 ||| hi.setWidth 16 <<< 11 ||| 0x0400#16 ||| opd.setWidth 16)) ∧
  (∀ cmd hi opd, RefusesWord (.reservedRsv3 cmd hi opd)
    (cmd.setWidth 16 <<< 13 ||| hi.setWidth 16 <<< 12 ||| 0x0800#16 ||| opd.setWidth 16)) ∧
  (∀ cmd opd, RefusesWord (.reservedRsv4 cmd opd) (cmd.setWidth 16 <<< 13 ||| 0x1000#16 ||| opd.setWidth 16)) ∧
  (∀ opd, RefusesWord (.reservedNopOpd opd) (0x0000#16 ||| opd.setWidth 16)) ∧
  (∀ opd, RefusesWord (.reservedDrainOpd opd) (0x4000#16 ||| opd.setWidth 16)) ∧
  (∀ opd, RefusesWord (.reservedUnbindOpd opd) (0x8000#16 ||| opd.setWidth 16))

/-! ## Rules of the whole machine -/

/-- R206: once set, neither mark is ever cleared by an instruction, and the first fault reason is kept. -/
def Obligations.MarksAreSticky : Prop :=
  ∀ (i : Instr) (s t : State), exec i s = .next t →
    (∀ r, s.faultMark = some r → t.faultMark = some r) ∧
    (∀ r, s.refusedMark = some r → ∃ r', t.refusedMark = some r')

/-- R206: while a mark is set the block goes on as its rules say: no register, output, memory or stream depends on the
marks. -/
def Obligations.MarksNeverAffectBehaviour : Prop :=
  ∀ (i : Instr) (s t : State) (f : Option FaultReason) (r : Option RefusalReason), exec i s = .next t →
    ∃ f' r', exec i { s with faultMark := f, refusedMark := r } = .next { t with faultMark := f', refusedMark := r' }

/-- R51: the block never reads `DST`: nothing but `DST` depends on what it holds. -/
def Obligations.DstIsNeverRead : Prop :=
  ∀ (i : Instr) (s t : State) (d : Memory), exec i s = .next t →
    ∃ d', exec i { s with dst := d } = .next { t with dst := d' }

/-- R202, R203, R204, R78: from a state that meets the invariant, only BIND and UNBIND set a fault, it is
`REBIND_MIDFRAME` and the first, and only a refused word sets the refusal; so no run meets `ILLEGAL_STATE`. -/
def Obligations.MarksAriseOnlyWhereTheRulesSay : Prop :=
  ∀ (i : Instr) (s t : State), s.Inv → exec i s = .next t →
    (t.faultMark ≠ s.faultMark →
      ((∃ c, i = .bind c) ∨ i = .unbind) ∧ s.faultMark = none ∧ t.faultMark = some .rebindMidframe) ∧
    (t.refusedMark ≠ s.refusedMark → ∃ w, RefusesWord i w)

/-- R165, R27: only FEED and DRAIN, and the two cases FEED may run that check a checksum, return `ready = 1`. -/
def Obligations.OnlyFeedAndDrainReportAFrame : Prop :=
  ∀ (i : Instr) (s t : State), exec i s = .next t → t.ready = true →
    (∃ b, i = .feed b) ∨ i = .drain ∨ (∃ b, i = .feedRbodyZchk b) ∨ (∃ b, i = .feedRchk b)

/-- R25, R131: unbound, no instruction ever reports a frame, and none writes `DST` on the port. -/
def Obligations.UnboundDecoderReportsAndWritesNothing : Prop :=
  ∀ (i : Instr) (s t : State), s.bound = false → exec i s = .next t → t.ready = false ∧ t.writes = []

/-- R164 and R20: only BIND and UNBIND change the binding. -/
def Obligations.OnlyBindAndUnbindChangeTheBinding : Prop :=
  ∀ (i : Instr) (s t : State), exec i s = .next t → (∀ c, i ≠ .bind c) → i ≠ .unbind →
    t.bound = s.bound ∧ t.cap = s.cap

/-- R234: right after `ready = 1` the FSM is in `SEEK_HEADER_1`, so a rebinding there is no fault. -/
def Obligations.ReadyLeavesTheDecoderSearching : Prop :=
  ∀ (i : Instr) (s t : State) (c : Byte), exec i s = .next t → t.ready = true →
    t.st = Fsm.seekHeader1 ∧
    exec (.bind c) t = .next { t with bound := true, cap := c, ready := false, writes := [] } ∧
    exec .unbind t = .next { t with bound := false, cap := 0#8, ready := false, writes := [] }

/-- R28, R59, R137: every write of every instruction has an offset below the capacity, while a destination is bound. -/
def Obligations.WritesStayBelowTheCapacity : Prop :=
  ∀ (i : Instr) (s t : State), exec i s = .next t → ∀ w ∈ t.writes, s.bound = true ∧ w.off < s.cap

/-- R28, R50, R104: with no host move in the gaps, an instruction changes `DST` only at the offsets it writes on the port,
never changes `PAY`, changes `SNK` only as ENCODE does, and takes from `SRC` only as DRAIN does, from its head. That FEED and
DRAIN leave `PAY` alone rests on the model's choice that it is separate from `DST` (notes/assumptions/18.md). -/
def Obligations.MemoryAndStreamFrame : Prop :=
  ∀ (i : Instr) (s t : State), s.gaps = [] → exec i s = .next t →
    (∀ a, (∀ w ∈ t.writes, w.off.toNat ≠ a) → Memory.read t.dst a = Memory.read s.dst a) ∧
    t.pay = s.pay ∧ t.turns = s.turns ∧ t.gaps = [] ∧ ((∀ l, i ≠ .encode l) → t.snk = s.snk) ∧
    (i ≠ .drain → t.src = s.src) ∧ (∃ n, t.src = s.src.drop n)

/-! ## Consequences for byte sequences -/

/-- R138. -/
def Obligations.FramedStartReceivesThePayload : Prop :=
  ∀ (s : State) (p f : List Byte), frameOf p = some f → s.bound = true →
    s.st = Fsm.seekHeader1 ∨ s.st = Fsm.seekHeader2 →
    ∃ t, runFeeds f s = some (List.replicate (p.length + 3) false ++ [true], t) ∧
      t.st = Fsm.seekHeader1 ∧ t.len = BitVec.ofNat 8 p.length ∧ t.cnt = BitVec.ofNat 8 p.length ∧
      t.acc = checksumFold (BitVec.ofNat 8 p.length) p ∧
      ∀ (i : Nat) (h : i < p.length), i < s.cap.toNat → Memory.read t.dst i = some p[i]

/-- R139 (a): garbage without a `HEADER_1` byte, from `SEEK_HEADER_1`, reports nothing, and the frame that follows it
completes on its last byte with its payload. -/
def Obligations.GarbageWithoutHeaderIsSkipped : Prop :=
  ∀ (s : State) (g p f : List Byte), frameOf p = some f → s.bound = true → s.st = Fsm.seekHeader1 → 0x06#8 ∉ g →
    ∃ t, runFeeds (g ++ f) s = some (List.replicate (g.length + p.length + 3) false ++ [true], t) ∧
      t.st = Fsm.seekHeader1 ∧
      ∀ (i : Nat) (h : i < p.length), i < s.cap.toNat → Memory.read t.dst i = some p[i]

/-- R140: for a bound decoder, `ready`, the FSM and the checksum do not depend on the capacity, and no byte at or past
the capacity changes. -/
def Obligations.CapacityNeverAffectsReady : Prop :=
  ∀ (bytes : List Byte) (s : State) (c : Byte), s.bound = true → ∃ rs t t',
    runFeeds bytes s = some (rs, t) ∧ runFeeds bytes { s with cap := c } = some (rs, t') ∧
    t'.st = t.st ∧ t'.acc = t.acc ∧ t'.len = t.len ∧ t'.cnt = t.cnt ∧
    ∀ a, c.toNat ≤ a → Memory.read t'.dst a = Memory.read s.dst a

/-- R142 (a): one flipped bit in a payload byte or in the checksum byte is always detected, and the FSM ends in
`SEEK_HEADER_1` after the same number of bytes. -/
def Obligations.OneBitFlipIsDetected : Prop :=
  ∀ (s : State) (p : List Byte) (k : Nat), p.length ≤ 255 → k < 8 → s.bound = true →
    s.st = Fsm.seekHeader1 ∨ s.st = Fsm.seekHeader2 →
    let l : Byte := BitVec.ofNat 8 p.length
    (∃ t, runFeeds ([0x06#8, 0x85#8, l] ++ p ++ [checksumFold l p ^^^ (1#8 <<< k)]) s =
        some (List.replicate (p.length + 4) false, t) ∧ t.st = Fsm.seekHeader1) ∧
    (∀ (i : Nat) (h : i < p.length),
      ∃ t, runFeeds ([0x06#8, 0x85#8, l] ++ p.set i (p[i] ^^^ (1#8 <<< k)) ++ [checksumFold l p]) s =
        some (List.replicate (p.length + 4) false, t) ∧ t.st = Fsm.seekHeader1)

/-- R235: after a completion the next three bytes write nothing and report nothing; if they are a header and a length
`l > 0`, the fourth byte is written at offset 0 when the capacity allows. -/
def Obligations.PayloadSurvivesThreeBytes : Prop :=
  ∀ (s : State) (b1 b2 b3 : Byte), s.st = Fsm.seekHeader1 →
    (∃ t, runFeeds [b1, b2, b3] s = some ([false, false, false], t) ∧ t.dst = s.dst) ∧
    ∀ (l b : Byte), l ≠ 0#8 → s.bound = true → 0#8 < s.cap →
      ∃ t, runFeeds [0x06#8, 0x85#8, l, b] s = some ([false, false, false, false], t) ∧
        t.writes = [⟨0#8, b⟩] ∧ Memory.read t.dst 0 = some b
end

