-- ==== Sys2Proof/Laws/Decode.lean ====
section
/-! SUPPORT. The fields of the words and keys that the encoder puts together, and a word or key as its fields. -/

namespace Sys2Proof

/-! Command words (30_encoding.md R79). -/

@[simp] theorem fields_of_word (w : Word) : cmdOf w ++ rsvOf w ++ opdOf w = w := by
  unfold cmdOf rsvOf opdOf; grind

@[simp] theorem cmdOf_fields (c : BitVec 3) (r : BitVec 5) (o : Byte) : cmdOf (c ++ r ++ o) = c := by
  unfold cmdOf; grind

@[simp] theorem rsvOf_fields (c : BitVec 3) (r : BitVec 5) (o : Byte) : rsvOf (c ++ r ++ o) = r := by
  unfold rsvOf; grind

@[simp] theorem opdOf_fields (c : BitVec 3) (r : BitVec 5) (o : Byte) : opdOf (c ++ r ++ o) = o := by
  unfold opdOf; grind

@[simp] theorem cmdOf_commandWord (c : BitVec 3) (o : Byte) : cmdOf (commandWord c o) = c := cmdOf_fields c 0#5 o
@[simp] theorem rsvOf_commandWord (c : BitVec 3) (o : Byte) : rsvOf (commandWord c o) = 0#5 := rsvOf_fields c 0#5 o
@[simp] theorem opdOf_commandWord (c : BitVec 3) (o : Byte) : opdOf (commandWord c o) = o := opdOf_fields c 0#5 o

/-- A word with `rsv = 0` is the command word of its other fields. -/
theorem commandWord_of_word (w : Word) (h : rsvOf w = 0#5) : commandWord (cmdOf w) (opdOf w) = w := by
  rw [commandWord, ← h, fields_of_word]

/-! Words compared field by field, as a row's mask and pattern compare them. -/

theorem cmdOf_and (w m : Word) : cmdOf (w &&& m) = cmdOf w &&& cmdOf m := by unfold cmdOf; grind
theorem rsvOf_and (w m : Word) : rsvOf (w &&& m) = rsvOf w &&& rsvOf m := by unfold rsvOf; grind
theorem opdOf_and (w m : Word) : opdOf (w &&& m) = opdOf w &&& opdOf m := by unfold opdOf; grind

theorem word_eq_iff (w p : Word) : w = p ↔ cmdOf w = cmdOf p ∧ rsvOf w = rsvOf p ∧ opdOf w = opdOf p := by
  refine ⟨by rintro rfl; simp, ?_⟩
  rintro ⟨hc, hr, ho⟩
  rw [← fields_of_word w, hc, hr, ho, fields_of_word]

/-- A word matches a row iff each field does. -/
theorem word_matches_iff (w m p : Word) : w &&& m = p ↔
    cmdOf w &&& cmdOf m = cmdOf p ∧ rsvOf w &&& rsvOf m = rsvOf p ∧ opdOf w &&& opdOf m = opdOf p := by
  rw [word_eq_iff, cmdOf_and, rsvOf_and, opdOf_and]

/-! The two reserved codes. -/

@[simp] theorem cmdOf_word110 (l : BitVec 13) : cmdOf (word110 l) = 6#3 := by unfold word110 cmdOf; grind
@[simp] theorem cmdOf_word111 (l : BitVec 13) : cmdOf (word111 l) = 7#3 := by unfold word111 cmdOf; grind
@[simp] theorem low_word110 (l : BitVec 13) : (word110 l).extractLsb' 0 13 = l := by unfold word110; grind
@[simp] theorem low_word111 (l : BitVec 13) : (word111 l).extractLsb' 0 13 = l := by unfold word111; grind

theorem word110_of_word (w : Word) (h : cmdOf w = 6#3) : word110 (w.extractLsb' 0 13) = w := by
  unfold word110; unfold cmdOf at h; rw [← h]; grind

theorem word111_of_word (w : Word) (h : cmdOf w = 7#3) : word111 (w.extractLsb' 0 13) = w := by
  unfold word111; unfold cmdOf at h; rw [← h]; grind

/-! The words with `rsv != 0`, as their three fields. -/

theorem wordRsv0_fields (c : BitVec 3) (h : BitVec 4) (o : Byte) :
    wordRsv0 c h o = c ++ (h ++ 1#1 : BitVec 5) ++ o := by unfold wordRsv0; grind

theorem wordRsv1_fields (c : BitVec 3) (h : BitVec 3) (o : Byte) :
    wordRsv1 c h o = c ++ (h ++ 2#2 : BitVec 5) ++ o := by unfold wordRsv1; grind

theorem wordRsv2_fields (c : BitVec 3) (h : BitVec 2) (o : Byte) :
    wordRsv2 c h o = c ++ (h ++ 4#3 : BitVec 5) ++ o := by unfold wordRsv2; grind

theorem wordRsv3_fields (c : BitVec 3) (h : BitVec 1) (o : Byte) :
    wordRsv3 c h o = c ++ (h ++ 8#4 : BitVec 5) ++ o := by unfold wordRsv3; grind

/-- Bits 12 to 8 of a word are those of its `rsv` field. -/
theorem extract_rsv (w : Word) (i n : Nat) (h : i + n ≤ 5) :
    w.extractLsb' (8 + i) n = (rsvOf w).extractLsb' i n := by
  unfold rsvOf; grind

/-! Dispatch keys (R83). -/

@[simp] theorem keyOf_st (st : StCode) (b : Byte) : (keyOf st b).extractLsb' 8 3 = st := by unfold keyOf; grind
@[simp] theorem keyOf_b (st : StCode) (b : Byte) : (keyOf st b).extractLsb' 0 8 = b := by unfold keyOf; grind

@[simp] theorem keyOf_fields (k : Key) : keyOf (k.extractLsb' 8 3) (k.extractLsb' 0 8) = k := by
  unfold keyOf; grind

/-- The mask 0x7FF keeps the whole key. -/
theorem key_and_all (k : Key) : k &&& 0x7FF#11 = k := BitVec.and_allOnes

/-- The mask 0x700 keeps the state code. -/
theorem keyOf_and_st (st : StCode) (b : Byte) : keyOf st b &&& 0x700#11 = keyOf st 0#8 := by
  revert st b; unfold keyOf; decide

/-! The five state codes differ and are legal (R77). -/

@[simp] theorem Fsm.legal_seekHeader1 : Fsm.legal Fsm.seekHeader1 = true := rfl
@[simp] theorem Fsm.legal_seekHeader2 : Fsm.legal Fsm.seekHeader2 = true := rfl
@[simp] theorem Fsm.legal_readLen : Fsm.legal Fsm.readLen = true := rfl
@[simp] theorem Fsm.legal_readBody : Fsm.legal Fsm.readBody = true := rfl
@[simp] theorem Fsm.legal_readChecksum : Fsm.legal Fsm.readChecksum = true := rfl
@[simp] theorem Fsm.seekHeader1_ne_seekHeader2 : (Fsm.seekHeader1 = Fsm.seekHeader2) = False := by decide
@[simp] theorem Fsm.seekHeader1_ne_readLen : (Fsm.seekHeader1 = Fsm.readLen) = False := by decide
@[simp] theorem Fsm.seekHeader1_ne_readBody : (Fsm.seekHeader1 = Fsm.readBody) = False := by decide
@[simp] theorem Fsm.seekHeader1_ne_readChecksum : (Fsm.seekHeader1 = Fsm.readChecksum) = False := by decide
@[simp] theorem Fsm.seekHeader2_ne_seekHeader1 : (Fsm.seekHeader2 = Fsm.seekHeader1) = False := by decide
@[simp] theorem Fsm.seekHeader2_ne_readLen : (Fsm.seekHeader2 = Fsm.readLen) = False := by decide
@[simp] theorem Fsm.seekHeader2_ne_readBody : (Fsm.seekHeader2 = Fsm.readBody) = False := by decide
@[simp] theorem Fsm.seekHeader2_ne_readChecksum : (Fsm.seekHeader2 = Fsm.readChecksum) = False := by decide
@[simp] theorem Fsm.readLen_ne_seekHeader1 : (Fsm.readLen = Fsm.seekHeader1) = False := by decide
@[simp] theorem Fsm.readLen_ne_seekHeader2 : (Fsm.readLen = Fsm.seekHeader2) = False := by decide
@[simp] theorem Fsm.readLen_ne_readBody : (Fsm.readLen = Fsm.readBody) = False := by decide
@[simp] theorem Fsm.readLen_ne_readChecksum : (Fsm.readLen = Fsm.readChecksum) = False := by decide
@[simp] theorem Fsm.readBody_ne_seekHeader1 : (Fsm.readBody = Fsm.seekHeader1) = False := by decide
@[simp] theorem Fsm.readBody_ne_seekHeader2 : (Fsm.readBody = Fsm.seekHeader2) = False := by decide
@[simp] theorem Fsm.readBody_ne_readLen : (Fsm.readBody = Fsm.readLen) = False := by decide
@[simp] theorem Fsm.readBody_ne_readChecksum : (Fsm.readBody = Fsm.readChecksum) = False := by decide
@[simp] theorem Fsm.readChecksum_ne_seekHeader1 : (Fsm.readChecksum = Fsm.seekHeader1) = False := by decide
@[simp] theorem Fsm.readChecksum_ne_seekHeader2 : (Fsm.readChecksum = Fsm.seekHeader2) = False := by decide
@[simp] theorem Fsm.readChecksum_ne_readLen : (Fsm.readChecksum = Fsm.readLen) = False := by decide
@[simp] theorem Fsm.readChecksum_ne_readBody : (Fsm.readChecksum = Fsm.readBody) = False := by decide

/-- The header values differ (R74). -/
@[simp] theorem Config.header1_ne_header2 : (Config.header1 = Config.header2) = False := by decide

/-! The case that a state selects (R83). -/

@[simp] theorem select_seekHeader1 (h1 h2 b : Byte) (f : Bool) :
    FeedCase.select h1 h2 Fsm.seekHeader1 b f = if b = h1 then .sh1Hit else .sh1Miss := rfl

@[simp] theorem select_seekHeader2 (h1 h2 b : Byte) (f : Bool) :
    FeedCase.select h1 h2 Fsm.seekHeader2 b f = if b = h2 then .sh2Hit else if b = h1 then .sh2Rehit else .sh2Miss := rfl

@[simp] theorem select_readLen (h1 h2 b : Byte) (f : Bool) : FeedCase.select h1 h2 Fsm.readLen b f = .rlen := rfl

@[simp] theorem select_readBody (h1 h2 b : Byte) (f : Bool) :
    FeedCase.select h1 h2 Fsm.readBody b f = if f then .rbodyZchk else .rbodyData := rfl

@[simp] theorem select_readChecksum (h1 h2 b : Byte) (f : Bool) :
    FeedCase.select h1 h2 Fsm.readChecksum b f = .rchk := rfl

theorem select_illegal (h1 h2 : Byte) (st : StCode) (b : Byte) (f : Bool) (h : Fsm.legal st = false) :
    FeedCase.select h1 h2 st b f = .illegal := by
  have : st = 5#3 ∨ st = 6#3 ∨ st = 7#3 := by revert h; revert st; decide
  rcases this with rfl | rfl | rfl <;> rfl

/-- The case is the illegal one exactly at the codes that name no state (R78, R132). -/
theorem select_eq_illegal (h1 h2 : Byte) (st : StCode) (b : Byte) (f : Bool) :
    FeedCase.select h1 h2 st b f = .illegal ↔ Fsm.legal st = false := by
  refine ⟨fun h => ?_, select_illegal h1 h2 st b f⟩
  unfold FeedCase.select at h
  repeat' split at h
  all_goals first | contradiction | skip
  have : ∀ c : StCode, c ≠ 0#3 → c ≠ 1#3 → c ≠ 2#3 → c ≠ 3#3 → c ≠ 4#3 → Fsm.legal c = false := by decide
  apply this <;> assumption

/-- The dispatch decoder on a key made of a state and a byte. -/
theorem decodeKey_keyOf (st : StCode) (b : Byte) (f : Bool) :
    decodeKey (keyOf st b) f = (FeedCase.select Config.header1 Config.header2 st b f).instr st b := by
  simp [decodeKey]

end Sys2Proof
end

