-- ==== Sys2Proof/Laws/Memory.lean ====
section
/-! SUPPORT. The laws of a memory: a read after a write, and the canonical form. -/

namespace Sys2Proof.Machine

@[simp] theorem Memory.read_nil (a : Nat) : Memory.read [] a = none := rfl

@[simp] theorem Memory.read_write_same (m : Memory) (a : Nat) (b : Byte) :
    Memory.read (Memory.write m a b) a = some b := by
  induction m with
  | nil => simp [Memory.write, Memory.read]
  | cons c m ih =>
    obtain ⟨x, v⟩ := c
    simp only [Memory.write]
    split
    · simp [Memory.read]
    · split
      · simp [Memory.read]
      · rename_i _ hne
        simpa [Memory.read, Ne.symm hne] using ih

theorem Memory.read_write_other (m : Memory) (a a' : Nat) (b : Byte) (h : a' ≠ a) :
    Memory.read (Memory.write m a b) a' = Memory.read m a' := by
  induction m with
  | nil => simp [Memory.write, Memory.read, Ne.symm h]
  | cons c m ih =>
    obtain ⟨x, v⟩ := c
    simp only [Memory.write]
    split
    · simp [Memory.read, Ne.symm h]
    · split
      · rename_i hax
        subst hax
        simp [Memory.read, Ne.symm h]
      · simp [Memory.read, ih]

/-- What a write leaves at any offset. -/
theorem Memory.read_write (m : Memory) (a a' : Nat) (b : Byte) :
    Memory.read (Memory.write m a b) a' = if a' = a then some b else Memory.read m a' := by
  split
  · rename_i h
    rw [h, Memory.read_write_same]
  · exact Memory.read_write_other m a a' b ‹_›

theorem Memory.wfFrom_write (m : Memory) (lo a : Nat) (b : Byte) (hlo : lo ≤ a) (ha : a < 256)
    (h : Memory.wfFrom lo m = true) : Memory.wfFrom lo (Memory.write m a b) = true := by
  induction m generalizing lo with
  | nil => simp [Memory.write, Memory.wfFrom, hlo, ha]
  | cons c m ih =>
    obtain ⟨x, v⟩ := c
    simp only [Memory.wfFrom, Bool.and_eq_true, decide_eq_true_eq] at h
    simp only [Memory.write]
    split
    · simp only [Memory.wfFrom, Bool.and_eq_true, decide_eq_true_eq]
      exact ⟨⟨hlo, ha⟩, ⟨by omega, h.1.2⟩, h.2⟩
    · split
      · rename_i hax
        subst hax
        simpa [Memory.wfFrom, ha, hlo] using h.2
      · simp only [Memory.wfFrom, Bool.and_eq_true, decide_eq_true_eq]
        exact ⟨h.1, ih (x + 1) (by omega) h.2⟩

/-- A write at an 8-bit offset keeps the canonical form. -/
theorem Memory.wf_write (m : Memory) (off b : Byte) (h : Memory.wf m = true) :
    Memory.wf (Memory.write m off.toNat b) = true :=
  Memory.wfFrom_write m 0 off.toNat b (Nat.zero_le _) off.isLt h

@[simp] theorem Memory.wf_nil : Memory.wf [] = true := rfl

theorem Memory.wf_foldl_write (known : List PortWrite) (m : Memory) (h : Memory.wf m = true) :
    Memory.wf (known.foldl (fun m w => Memory.write m w.off.toNat w.data) m) = true := by
  induction known generalizing m with
  | nil => exact h
  | cons w known ih => exact ih _ (Memory.wf_write m w.off w.data h)

/-- A lent buffer is in canonical form. -/
theorem Memory.wf_ofWrites (known : List PortWrite) : Memory.wf (Memory.ofWrites known) = true :=
  Memory.wf_foldl_write known [] Memory.wf_nil

/-- Below its first offset a canonical memory lists nothing. -/
theorem Memory.read_below (m : Memory) (lo a : Nat) (h : Memory.wfFrom lo m = true) (ha : a < lo) :
    Memory.read m a = none := by
  induction m generalizing lo with
  | nil => rfl
  | cons c m ih =>
    obtain ⟨x, v⟩ := c
    simp only [Memory.wfFrom, Bool.and_eq_true, decide_eq_true_eq] at h
    have hx : x ≠ a := by omega
    simpa [Memory.read, hx] using ih (x + 1) h.2 (by omega)

end Sys2Proof.Machine
end

