-- ==== Sys2Proof/Laws/State.lean ====
section
/-! SUPPORT. One lemma per field per update of State, true by definition, so that no later proof unfolds a record
update. -/

namespace Sys2Proof.Machine

variable (s : State)

/-! `startCommand` -/

@[simp] theorem State.startCommand_st : s.startCommand.st = s.st := rfl
@[simp] theorem State.startCommand_acc : s.startCommand.acc = s.acc := rfl
@[simp] theorem State.startCommand_len : s.startCommand.len = s.len := rfl
@[simp] theorem State.startCommand_cnt : s.startCommand.cnt = s.cnt := rfl
@[simp] theorem State.startCommand_bound : s.startCommand.bound = s.bound := rfl
@[simp] theorem State.startCommand_cap : s.startCommand.cap = s.cap := rfl
@[simp] theorem State.startCommand_faultMark : s.startCommand.faultMark = s.faultMark := rfl
@[simp] theorem State.startCommand_refusedMark : s.startCommand.refusedMark = s.refusedMark := rfl
@[simp] theorem State.startCommand_ready : s.startCommand.ready = false := rfl
@[simp] theorem State.startCommand_writes : s.startCommand.writes = [] := rfl
@[simp] theorem State.startCommand_dst : s.startCommand.dst = s.dst := rfl
@[simp] theorem State.startCommand_pay : s.startCommand.pay = s.pay := rfl
@[simp] theorem State.startCommand_src : s.startCommand.src = s.src := rfl
@[simp] theorem State.startCommand_snk : s.startCommand.snk = s.snk := rfl
@[simp] theorem State.startCommand_turns : s.startCommand.turns = s.turns := rfl
@[simp] theorem State.startCommand_gaps : s.startCommand.gaps = s.gaps := rfl

/-! `writeDstPort` -/

@[simp] theorem State.writeDstPort_st (off v : Byte) : (s.writeDstPort off v).st = s.st := rfl
@[simp] theorem State.writeDstPort_acc (off v : Byte) : (s.writeDstPort off v).acc = s.acc := rfl
@[simp] theorem State.writeDstPort_len (off v : Byte) : (s.writeDstPort off v).len = s.len := rfl
@[simp] theorem State.writeDstPort_cnt (off v : Byte) : (s.writeDstPort off v).cnt = s.cnt := rfl
@[simp] theorem State.writeDstPort_bound (off v : Byte) : (s.writeDstPort off v).bound = s.bound := rfl
@[simp] theorem State.writeDstPort_cap (off v : Byte) : (s.writeDstPort off v).cap = s.cap := rfl
@[simp] theorem State.writeDstPort_faultMark (off v : Byte) : (s.writeDstPort off v).faultMark = s.faultMark := rfl
@[simp] theorem State.writeDstPort_refusedMark (off v : Byte) : (s.writeDstPort off v).refusedMark = s.refusedMark := rfl
@[simp] theorem State.writeDstPort_ready (off v : Byte) : (s.writeDstPort off v).ready = s.ready := rfl
@[simp] theorem State.writeDstPort_writes (off v : Byte) : (s.writeDstPort off v).writes = s.writes ++ [⟨off, v⟩] := rfl
@[simp] theorem State.writeDstPort_dst (off v : Byte) : (s.writeDstPort off v).dst = Memory.write s.dst off.toNat v := rfl
@[simp] theorem State.writeDstPort_pay (off v : Byte) : (s.writeDstPort off v).pay = s.pay := rfl
@[simp] theorem State.writeDstPort_src (off v : Byte) : (s.writeDstPort off v).src = s.src := rfl
@[simp] theorem State.writeDstPort_snk (off v : Byte) : (s.writeDstPort off v).snk = s.snk := rfl
@[simp] theorem State.writeDstPort_turns (off v : Byte) : (s.writeDstPort off v).turns = s.turns := rfl
@[simp] theorem State.writeDstPort_gaps (off v : Byte) : (s.writeDstPort off v).gaps = s.gaps := rfl

/-! `raise` -/

@[simp] theorem State.raise_st (r : FaultReason) : (s.raise r).st = s.st := rfl
@[simp] theorem State.raise_acc (r : FaultReason) : (s.raise r).acc = s.acc := rfl
@[simp] theorem State.raise_len (r : FaultReason) : (s.raise r).len = s.len := rfl
@[simp] theorem State.raise_cnt (r : FaultReason) : (s.raise r).cnt = s.cnt := rfl
@[simp] theorem State.raise_bound (r : FaultReason) : (s.raise r).bound = s.bound := rfl
@[simp] theorem State.raise_cap (r : FaultReason) : (s.raise r).cap = s.cap := rfl
@[simp] theorem State.raise_faultMark (r : FaultReason) : (s.raise r).faultMark = s.faultMark.or (some r) := rfl
@[simp] theorem State.raise_refusedMark (r : FaultReason) : (s.raise r).refusedMark = s.refusedMark := rfl
@[simp] theorem State.raise_ready (r : FaultReason) : (s.raise r).ready = s.ready := rfl
@[simp] theorem State.raise_writes (r : FaultReason) : (s.raise r).writes = s.writes := rfl
@[simp] theorem State.raise_dst (r : FaultReason) : (s.raise r).dst = s.dst := rfl
@[simp] theorem State.raise_pay (r : FaultReason) : (s.raise r).pay = s.pay := rfl
@[simp] theorem State.raise_src (r : FaultReason) : (s.raise r).src = s.src := rfl
@[simp] theorem State.raise_snk (r : FaultReason) : (s.raise r).snk = s.snk := rfl
@[simp] theorem State.raise_turns (r : FaultReason) : (s.raise r).turns = s.turns := rfl
@[simp] theorem State.raise_gaps (r : FaultReason) : (s.raise r).gaps = s.gaps := rfl

/-! `refuse` -/

@[simp] theorem State.refuse_st (w : Word) : (s.refuse w).st = s.st := rfl
@[simp] theorem State.refuse_acc (w : Word) : (s.refuse w).acc = s.acc := rfl
@[simp] theorem State.refuse_len (w : Word) : (s.refuse w).len = s.len := rfl
@[simp] theorem State.refuse_cnt (w : Word) : (s.refuse w).cnt = s.cnt := rfl
@[simp] theorem State.refuse_bound (w : Word) : (s.refuse w).bound = s.bound := rfl
@[simp] theorem State.refuse_cap (w : Word) : (s.refuse w).cap = s.cap := rfl
@[simp] theorem State.refuse_faultMark (w : Word) : (s.refuse w).faultMark = s.faultMark := rfl
@[simp] theorem State.refuse_refusedMark (w : Word) : (s.refuse w).refusedMark = s.refusedMark.or (some (.reservedCmd w)) := rfl
@[simp] theorem State.refuse_ready (w : Word) : (s.refuse w).ready = s.ready := rfl
@[simp] theorem State.refuse_writes (w : Word) : (s.refuse w).writes = s.writes := rfl
@[simp] theorem State.refuse_dst (w : Word) : (s.refuse w).dst = s.dst := rfl
@[simp] theorem State.refuse_pay (w : Word) : (s.refuse w).pay = s.pay := rfl
@[simp] theorem State.refuse_src (w : Word) : (s.refuse w).src = s.src := rfl
@[simp] theorem State.refuse_snk (w : Word) : (s.refuse w).snk = s.snk := rfl
@[simp] theorem State.refuse_turns (w : Word) : (s.refuse w).turns = s.turns := rfl
@[simp] theorem State.refuse_gaps (w : Word) : (s.refuse w).gaps = s.gaps := rfl

/-! `appendSnk` -/

@[simp] theorem State.appendSnk_st (bytes : List Byte) : (s.appendSnk bytes).st = s.st := rfl
@[simp] theorem State.appendSnk_acc (bytes : List Byte) : (s.appendSnk bytes).acc = s.acc := rfl
@[simp] theorem State.appendSnk_len (bytes : List Byte) : (s.appendSnk bytes).len = s.len := rfl
@[simp] theorem State.appendSnk_cnt (bytes : List Byte) : (s.appendSnk bytes).cnt = s.cnt := rfl
@[simp] theorem State.appendSnk_bound (bytes : List Byte) : (s.appendSnk bytes).bound = s.bound := rfl
@[simp] theorem State.appendSnk_cap (bytes : List Byte) : (s.appendSnk bytes).cap = s.cap := rfl
@[simp] theorem State.appendSnk_faultMark (bytes : List Byte) : (s.appendSnk bytes).faultMark = s.faultMark := rfl
@[simp] theorem State.appendSnk_refusedMark (bytes : List Byte) : (s.appendSnk bytes).refusedMark = s.refusedMark := rfl
@[simp] theorem State.appendSnk_ready (bytes : List Byte) : (s.appendSnk bytes).ready = s.ready := rfl
@[simp] theorem State.appendSnk_writes (bytes : List Byte) : (s.appendSnk bytes).writes = s.writes := rfl
@[simp] theorem State.appendSnk_dst (bytes : List Byte) : (s.appendSnk bytes).dst = s.dst := rfl
@[simp] theorem State.appendSnk_pay (bytes : List Byte) : (s.appendSnk bytes).pay = s.pay := rfl
@[simp] theorem State.appendSnk_src (bytes : List Byte) : (s.appendSnk bytes).src = s.src := rfl
@[simp] theorem State.appendSnk_snk (bytes : List Byte) : (s.appendSnk bytes).snk = s.snk ++ bytes := rfl
@[simp] theorem State.appendSnk_turns (bytes : List Byte) : (s.appendSnk bytes).turns = s.turns := rfl
@[simp] theorem State.appendSnk_gaps (bytes : List Byte) : (s.appendSnk bytes).gaps = s.gaps := rfl

/-! `appendSrc` -/

@[simp] theorem State.appendSrc_st (bytes : List Byte) : (s.appendSrc bytes).st = s.st := rfl
@[simp] theorem State.appendSrc_acc (bytes : List Byte) : (s.appendSrc bytes).acc = s.acc := rfl
@[simp] theorem State.appendSrc_len (bytes : List Byte) : (s.appendSrc bytes).len = s.len := rfl
@[simp] theorem State.appendSrc_cnt (bytes : List Byte) : (s.appendSrc bytes).cnt = s.cnt := rfl
@[simp] theorem State.appendSrc_bound (bytes : List Byte) : (s.appendSrc bytes).bound = s.bound := rfl
@[simp] theorem State.appendSrc_cap (bytes : List Byte) : (s.appendSrc bytes).cap = s.cap := rfl
@[simp] theorem State.appendSrc_faultMark (bytes : List Byte) : (s.appendSrc bytes).faultMark = s.faultMark := rfl
@[simp] theorem State.appendSrc_refusedMark (bytes : List Byte) : (s.appendSrc bytes).refusedMark = s.refusedMark := rfl
@[simp] theorem State.appendSrc_ready (bytes : List Byte) : (s.appendSrc bytes).ready = s.ready := rfl
@[simp] theorem State.appendSrc_writes (bytes : List Byte) : (s.appendSrc bytes).writes = s.writes := rfl
@[simp] theorem State.appendSrc_dst (bytes : List Byte) : (s.appendSrc bytes).dst = s.dst := rfl
@[simp] theorem State.appendSrc_pay (bytes : List Byte) : (s.appendSrc bytes).pay = s.pay := rfl
@[simp] theorem State.appendSrc_src (bytes : List Byte) : (s.appendSrc bytes).src = s.src ++ bytes := rfl
@[simp] theorem State.appendSrc_snk (bytes : List Byte) : (s.appendSrc bytes).snk = s.snk := rfl
@[simp] theorem State.appendSrc_turns (bytes : List Byte) : (s.appendSrc bytes).turns = s.turns := rfl
@[simp] theorem State.appendSrc_gaps (bytes : List Byte) : (s.appendSrc bytes).gaps = s.gaps := rfl

/-! `goto` -/

@[simp] theorem State.goto_st (c : StCode) : (s.goto c).st = c := rfl
@[simp] theorem State.goto_acc (c : StCode) : (s.goto c).acc = s.acc := rfl
@[simp] theorem State.goto_len (c : StCode) : (s.goto c).len = s.len := rfl
@[simp] theorem State.goto_cnt (c : StCode) : (s.goto c).cnt = s.cnt := rfl
@[simp] theorem State.goto_bound (c : StCode) : (s.goto c).bound = s.bound := rfl
@[simp] theorem State.goto_cap (c : StCode) : (s.goto c).cap = s.cap := rfl
@[simp] theorem State.goto_faultMark (c : StCode) : (s.goto c).faultMark = s.faultMark := rfl
@[simp] theorem State.goto_refusedMark (c : StCode) : (s.goto c).refusedMark = s.refusedMark := rfl
@[simp] theorem State.goto_ready (c : StCode) : (s.goto c).ready = s.ready := rfl
@[simp] theorem State.goto_writes (c : StCode) : (s.goto c).writes = s.writes := rfl
@[simp] theorem State.goto_dst (c : StCode) : (s.goto c).dst = s.dst := rfl
@[simp] theorem State.goto_pay (c : StCode) : (s.goto c).pay = s.pay := rfl
@[simp] theorem State.goto_src (c : StCode) : (s.goto c).src = s.src := rfl
@[simp] theorem State.goto_snk (c : StCode) : (s.goto c).snk = s.snk := rfl
@[simp] theorem State.goto_turns (c : StCode) : (s.goto c).turns = s.turns := rfl
@[simp] theorem State.goto_gaps (c : StCode) : (s.goto c).gaps = s.gaps := rfl

/-! `checkByte` -/

@[simp] theorem State.checkByte_st (b : Byte) : (s.checkByte b).st = Fsm.seekHeader1 := rfl
@[simp] theorem State.checkByte_acc (b : Byte) : (s.checkByte b).acc = s.acc := rfl
@[simp] theorem State.checkByte_len (b : Byte) : (s.checkByte b).len = s.len := rfl
@[simp] theorem State.checkByte_cnt (b : Byte) : (s.checkByte b).cnt = s.cnt := rfl
@[simp] theorem State.checkByte_bound (b : Byte) : (s.checkByte b).bound = s.bound := rfl
@[simp] theorem State.checkByte_cap (b : Byte) : (s.checkByte b).cap = s.cap := rfl
@[simp] theorem State.checkByte_faultMark (b : Byte) : (s.checkByte b).faultMark = s.faultMark := rfl
@[simp] theorem State.checkByte_refusedMark (b : Byte) : (s.checkByte b).refusedMark = s.refusedMark := rfl
@[simp] theorem State.checkByte_ready (b : Byte) : (s.checkByte b).ready = s.frameReady b := rfl
@[simp] theorem State.checkByte_writes (b : Byte) : (s.checkByte b).writes = s.writes := rfl
@[simp] theorem State.checkByte_dst (b : Byte) : (s.checkByte b).dst = s.dst := rfl
@[simp] theorem State.checkByte_pay (b : Byte) : (s.checkByte b).pay = s.pay := rfl
@[simp] theorem State.checkByte_src (b : Byte) : (s.checkByte b).src = s.src := rfl
@[simp] theorem State.checkByte_snk (b : Byte) : (s.checkByte b).snk = s.snk := rfl
@[simp] theorem State.checkByte_turns (b : Byte) : (s.checkByte b).turns = s.turns := rfl
@[simp] theorem State.checkByte_gaps (b : Byte) : (s.checkByte b).gaps = s.gaps := rfl

/-! `resetBlock` -/

@[simp] theorem State.resetBlock_st : s.resetBlock.st = Fsm.seekHeader1 := rfl
@[simp] theorem State.resetBlock_acc : s.resetBlock.acc = 0x00#8 := rfl
@[simp] theorem State.resetBlock_len : s.resetBlock.len = 0x00#8 := rfl
@[simp] theorem State.resetBlock_cnt : s.resetBlock.cnt = 0x00#8 := rfl
@[simp] theorem State.resetBlock_bound : s.resetBlock.bound = false := rfl
@[simp] theorem State.resetBlock_cap : s.resetBlock.cap = 0x00#8 := rfl
@[simp] theorem State.resetBlock_faultMark : s.resetBlock.faultMark = none := rfl
@[simp] theorem State.resetBlock_refusedMark : s.resetBlock.refusedMark = none := rfl
@[simp] theorem State.resetBlock_ready : s.resetBlock.ready = s.ready := rfl
@[simp] theorem State.resetBlock_writes : s.resetBlock.writes = s.writes := rfl
@[simp] theorem State.resetBlock_dst : s.resetBlock.dst = s.dst := rfl
@[simp] theorem State.resetBlock_pay : s.resetBlock.pay = s.pay := rfl
@[simp] theorem State.resetBlock_src : s.resetBlock.src = s.src := rfl
@[simp] theorem State.resetBlock_snk : s.resetBlock.snk = s.snk := rfl
@[simp] theorem State.resetBlock_turns : s.resetBlock.turns = s.turns := rfl
@[simp] theorem State.resetBlock_gaps : s.resetBlock.gaps = s.gaps := rfl

end Sys2Proof.Machine
end

