-- ==== Sys2Proof/Laws/Host.lean ====
section
/-! SUPPORT. What the host's moves can do, said once (43_orchestrator.md R184): they reach `SRC`, `SNK`, `PAY` and `DST`,
and nothing of the block. -/

namespace Sys2Proof.Machine

/-- One move, as the four host fields it may change. -/
theorem applyMove_eq (m : HostMove) (s : State) : ∃ (bytes : List Byte) (n : Nat) (d p : Memory),
    applyMove m s = { s with src := s.src ++ bytes, snk := s.snk.drop n, dst := d, pay := p } ∧
    bytes.length = m.supplies ∧
    (Memory.wf s.dst = true → Memory.wf d = true) ∧ (Memory.wf s.pay = true → Memory.wf p = true) := by
  cases m with
  | appendSrc bytes => exact ⟨bytes, 0, s.dst, s.pay, by simp [applyMove, State.appendSrc], rfl, id, id⟩
  | takeSnk n => exact ⟨[], n, s.dst, s.pay, by simp [applyMove], rfl, id, id⟩
  | writePay off data =>
    exact ⟨[], 0, s.dst, Memory.write s.pay off.toNat data, by simp [applyMove], rfl, id, Memory.wf_write _ _ _⟩
  | writeDst off data =>
    exact ⟨[], 0, Memory.write s.dst off.toNat data, s.pay, by simp [applyMove], rfl, Memory.wf_write _ _ _, id⟩

@[simp] theorem applyMoves_nil (s : State) : applyMoves [] s = s := rfl

@[simp] theorem applyMoves_cons (m : HostMove) (ms : List HostMove) (s : State) :
    applyMoves (m :: ms) s = applyMoves ms (applyMove m s) := rfl

/-- The moves of a gap, as the four host fields they may change. -/
theorem applyMoves_eq (ms : List HostMove) (s : State) : ∃ (bytes : List Byte) (n : Nat) (d p : Memory),
    applyMoves ms s = { s with src := s.src ++ bytes, snk := s.snk.drop n, dst := d, pay := p } ∧
    bytes.length = (ms.map HostMove.supplies).sum ∧
    (Memory.wf s.dst = true → Memory.wf d = true) ∧ (Memory.wf s.pay = true → Memory.wf p = true) := by
  induction ms generalizing s with
  | nil => exact ⟨[], 0, s.dst, s.pay, by simp, rfl, id, id⟩
  | cons m ms ih =>
    obtain ⟨b1, n1, d1, p1, h1, hl1, hd1, hp1⟩ := applyMove_eq m s
    obtain ⟨b2, n2, d2, p2, h2, hl2, hd2, hp2⟩ := ih (applyMove m s)
    refine ⟨b1 ++ b2, n1 + n2, d2, p2, ?_, by simp [hl1, hl2], ?_, ?_⟩
    · rw [applyMoves_cons, h2, h1]
      simp [List.drop_drop]
    · intro h; exact hd2 (by rw [h1]; exact hd1 h)
    · intro h; exact hp2 (by rw [h1]; exact hp1 h)

/-- The next gap, as the five host fields it may change. -/
theorem State.takeGap_eq (s : State) : ∃ (bytes : List Byte) (n : Nat) (d p : Memory),
    s.takeGap = { s with src := s.src ++ bytes, snk := s.snk.drop n, dst := d, pay := p, gaps := s.gaps.tail } ∧
    bytes.length + (s.gaps.tail.flatten.map HostMove.supplies).sum = (s.gaps.flatten.map HostMove.supplies).sum ∧
    (Memory.wf s.dst = true → Memory.wf d = true) ∧ (Memory.wf s.pay = true → Memory.wf p = true) := by
  cases hg : s.gaps with
  | nil =>
    refine ⟨[], 0, s.dst, s.pay, ?_, rfl, id, id⟩
    cases s
    simp_all [State.takeGap]
  | cons ms rest =>
    obtain ⟨b, n, d, p, h, hl, hd, hp⟩ := applyMoves_eq ms { s with gaps := rest }
    refine ⟨b, n, d, p, ?_, by simp [hl], hd, hp⟩
    unfold State.takeGap
    rw [hg]
    simpa using h

/-- With no gap scheduled the host does nothing. -/
theorem State.takeGap_of_nil (s : State) (h : s.gaps = []) : s.takeGap = s := by
  unfold State.takeGap
  rw [h]

/-- What the host does between two steps either resets the registers and marks or leaves them alone, and keeps the
memories' form. -/
theorem applyEvent_eq (e : HostEvent) (s : State) : ∃ (bytes : List Byte) (n : Nat) (d p : Memory),
    (applyEvent e s = { s with src := s.src ++ bytes, snk := s.snk.drop n, dst := d, pay := p } ∨
      applyEvent e s = s.resetBlock ∧ d = s.dst ∧ p = s.pay) ∧
    (Memory.wf s.dst = true → Memory.wf d = true) ∧ (Memory.wf s.pay = true → Memory.wf p = true) := by
  cases e with
  | move m =>
    obtain ⟨b, n, d, p, h, _, hd, hp⟩ := applyMove_eq m s
    exact ⟨b, n, d, p, .inl h, hd, hp⟩
  | reset => exact ⟨[], 0, s.dst, s.pay, .inr ⟨rfl, rfl, rfl⟩, id, id⟩
  | lendDst known =>
    exact ⟨[], 0, Memory.ofWrites known, s.pay, .inl (by simp [applyEvent]), fun _ => Memory.wf_ofWrites known, id⟩

end Sys2Proof.Machine
end

