-- ==== Sys2Proof/Laws/Feed.lean ====
section
/-! SUPPORT. What a FEED step can do, said once: the state each case leaves, and what no case changes. -/

namespace Sys2Proof.Machine

variable (b : Byte) (s : State)

/-! ## The state each case leaves (41_decoder.md R121 to R132) -/

theorem feedStep_seekHeader1 (h : s.st = Fsm.seekHeader1) : feedStep b s =
    { s with ready := false, st := if b = Config.header1 then Fsm.seekHeader2 else Fsm.seekHeader1 } := by
  unfold feedStep State.feedCase
  rw [h, select_seekHeader1]
  by_cases hb : b = Config.header1 <;> simp [hb, bodySh1Hit, bodySh1Miss, State.goto]

theorem feedStep_seekHeader2 (h : s.st = Fsm.seekHeader2) : feedStep b s =
    { s with ready := false,
             st := if b = Config.header2 then Fsm.readLen
                   else if b = Config.header1 then Fsm.seekHeader2 else Fsm.seekHeader1 } := by
  unfold feedStep State.feedCase
  rw [h, select_seekHeader2]
  by_cases h2 : b = Config.header2
  · simp [h2, bodySh2Hit, State.goto]
  · by_cases h1 : b = Config.header1
    · subst h1; simp [bodySh2Rehit, State.goto]
    · simp [h1, h2, bodySh2Miss, State.goto]

theorem feedStep_readLen (h : s.st = Fsm.readLen) : feedStep b s =
    { s with ready := false, len := b, acc := b, cnt := 0#8, st := Fsm.readBody } := by
  unfold feedStep State.feedCase
  rw [h, select_readLen]
  rfl

/-- The write of a data byte, as the two fields it may change (R127, R128). -/
theorem State.storeData_eq : s.storeData b =
    { s with dst := if s.dstGate then Memory.write s.dst s.cnt.toNat b else s.dst,
             writes := if s.dstGate then s.writes ++ [⟨s.cnt, b⟩] else s.writes } := by
  unfold State.storeData
  split <;> rfl

theorem feedStep_data (h : s.st = Fsm.readBody) (hc : s.cnt ≠ s.len) : feedStep b s =
    { s with ready := false, acc := s.acc ^^^ b, cnt := s.cnt + 1#8,
             st := if s.cnt + 1#8 = s.len then Fsm.readChecksum else Fsm.readBody,
             dst := if s.dstGate then Memory.write s.dst s.cnt.toNat b else s.dst,
             writes := if s.dstGate then s.writes ++ [⟨s.cnt, b⟩] else s.writes } := by
  unfold feedStep State.feedCase
  rw [h, select_readBody]
  have : (s.cnt == s.len) = false := by simpa using hc
  rw [this]
  simp [bodyRbodyData, State.storeData_eq, foldByte, State.dstGate]

theorem feedStep_zchk (h : s.st = Fsm.readBody) (hc : s.cnt = s.len) : feedStep b s =
    { s with ready := s.frameReady b, st := Fsm.seekHeader1 } := by
  unfold feedStep State.feedCase
  rw [h, select_readBody, hc, beq_self_eq_true]
  rfl

theorem feedStep_readChecksum (h : s.st = Fsm.readChecksum) : feedStep b s =
    { s with ready := s.frameReady b, st := Fsm.seekHeader1 } := by
  unfold feedStep State.feedCase
  rw [h, select_readChecksum]
  rfl

theorem feedStep_illegal (h : Fsm.legal s.st = false) : feedStep b s =
    { s with ready := false, faultMark := s.faultMark.or (some (.illegalState s.st)) } := by
  unfold feedStep State.feedCase
  rw [select_illegal _ _ _ _ _ h]
  rfl

/-- The seven situations of a FEED step. -/
theorem feed_cases : s.st = Fsm.seekHeader1 ∨ s.st = Fsm.seekHeader2 ∨ s.st = Fsm.readLen ∨
    (s.st = Fsm.readBody ∧ s.cnt ≠ s.len) ∨ (s.st = Fsm.readBody ∧ s.cnt = s.len) ∨ s.st = Fsm.readChecksum ∨
    Fsm.legal s.st = false := by
  have h : ∀ c : StCode, c = Fsm.seekHeader1 ∨ c = Fsm.seekHeader2 ∨ c = Fsm.readLen ∨ c = Fsm.readBody ∨
      c = Fsm.readChecksum ∨ Fsm.legal c = false := by decide
  have := h s.st
  tauto

/-! ## What no case changes -/

/-- A FEED step, as the fields it may change. -/
theorem feedStep_eq : ∃ (st : StCode) (acc len cnt : Byte) (f : Option FaultReason) (r : Bool) (ws : List PortWrite)
    (d : Memory), feedStep b s =
      { s with st := st, acc := acc, len := len, cnt := cnt, faultMark := f, ready := r, writes := ws, dst := d } := by
  rcases feed_cases s with h | h | h | ⟨h, hc⟩ | ⟨h, hc⟩ | h | h
  · exact ⟨_, s.acc, s.len, s.cnt, s.faultMark, _, s.writes, s.dst, feedStep_seekHeader1 b s h⟩
  · exact ⟨_, s.acc, s.len, s.cnt, s.faultMark, _, s.writes, s.dst, feedStep_seekHeader2 b s h⟩
  · exact ⟨_, _, _, _, s.faultMark, _, s.writes, s.dst, feedStep_readLen b s h⟩
  · exact ⟨_, _, s.len, _, s.faultMark, _, _, _, feedStep_data b s h hc⟩
  · exact ⟨_, s.acc, s.len, s.cnt, s.faultMark, _, s.writes, s.dst, feedStep_zchk b s h hc⟩
  · exact ⟨_, s.acc, s.len, s.cnt, s.faultMark, _, s.writes, s.dst, feedStep_readChecksum b s h⟩
  · exact ⟨s.st, s.acc, s.len, s.cnt, _, _, s.writes, s.dst, feedStep_illegal b s h⟩

@[simp] theorem feedStep_bound : (feedStep b s).bound = s.bound := by
  obtain ⟨_, _, _, _, _, _, _, _, h⟩ := feedStep_eq b s; rw [h]
@[simp] theorem feedStep_cap : (feedStep b s).cap = s.cap := by
  obtain ⟨_, _, _, _, _, _, _, _, h⟩ := feedStep_eq b s; rw [h]
@[simp] theorem feedStep_refusedMark : (feedStep b s).refusedMark = s.refusedMark := by
  obtain ⟨_, _, _, _, _, _, _, _, h⟩ := feedStep_eq b s; rw [h]
@[simp] theorem feedStep_pay : (feedStep b s).pay = s.pay := by
  obtain ⟨_, _, _, _, _, _, _, _, h⟩ := feedStep_eq b s; rw [h]
@[simp] theorem feedStep_src : (feedStep b s).src = s.src := by
  obtain ⟨_, _, _, _, _, _, _, _, h⟩ := feedStep_eq b s; rw [h]
@[simp] theorem feedStep_snk : (feedStep b s).snk = s.snk := by
  obtain ⟨_, _, _, _, _, _, _, _, h⟩ := feedStep_eq b s; rw [h]
@[simp] theorem feedStep_turns : (feedStep b s).turns = s.turns := by
  obtain ⟨_, _, _, _, _, _, _, _, h⟩ := feedStep_eq b s; rw [h]
@[simp] theorem feedStep_gaps : (feedStep b s).gaps = s.gaps := by
  obtain ⟨_, _, _, _, _, _, _, _, h⟩ := feedStep_eq b s; rw [h]

/-- A FEED step keeps the legal codes (10_state.md R21). -/
theorem feedStep_legal (hl : Fsm.legal s.st = true) : Fsm.legal (feedStep b s).st = true := by
  rcases feed_cases s with h | h | h | ⟨h, hc⟩ | ⟨h, hc⟩ | h | h
  · rw [feedStep_seekHeader1 b s h]; dsimp only; split <;> decide
  · rw [feedStep_seekHeader2 b s h]; dsimp only; repeat' split
    all_goals decide
  · rw [feedStep_readLen b s h]; rfl
  · rw [feedStep_data b s h hc]; dsimp only; split <;> decide
  · rw [feedStep_zchk b s h hc]; rfl
  · rw [feedStep_readChecksum b s h]; rfl
  · rw [h] at hl; contradiction

/-- A FEED step in a legal state sets no mark (60_exceptions.md R203). -/
theorem feedStep_faultMark (hl : Fsm.legal s.st = true) : (feedStep b s).faultMark = s.faultMark := by
  rcases feed_cases s with h | h | h | ⟨h, hc⟩ | ⟨h, hc⟩ | h | h
  · rw [feedStep_seekHeader1 b s h]
  · rw [feedStep_seekHeader2 b s h]
  · rw [feedStep_readLen b s h]
  · rw [feedStep_data b s h hc]
  · rw [feedStep_zchk b s h hc]
  · rw [feedStep_readChecksum b s h]
  · rw [h] at hl; contradiction

/-- When `ready` is 1 after a FEED step (R129, R130, R131). -/
theorem feedStep_ready_iff : (feedStep b s).ready = true ↔
    (s.st = Fsm.readChecksum ∨ (s.st = Fsm.readBody ∧ s.cnt = s.len)) ∧ b = s.acc ∧ s.bound = true := by
  rcases feed_cases s with h | h | h | ⟨h, hc⟩ | ⟨h, hc⟩ | h | h
  · rw [feedStep_seekHeader1 b s h, h]; simp
  · rw [feedStep_seekHeader2 b s h, h]; simp
  · rw [feedStep_readLen b s h, h]; simp
  · rw [feedStep_data b s h hc, h]; simp [hc]
  · rw [feedStep_zchk b s h hc, h]; simp [State.frameReady, hc]
  · rw [feedStep_readChecksum b s h, h]; simp [State.frameReady]
  · rw [feedStep_illegal b s h]
    have : ∀ c : StCode, Fsm.legal c = false → c ≠ Fsm.readChecksum ∧ c ≠ Fsm.readBody := by decide
    simp [this s.st h]

/-- After `ready = 1` the FSM searches for a header (R129, R130). -/
theorem feedStep_ready_st (hr : (feedStep b s).ready = true) : (feedStep b s).st = Fsm.seekHeader1 := by
  obtain ⟨h | ⟨h, hc⟩, -⟩ := (feedStep_ready_iff b s).1 hr
  · rw [feedStep_readChecksum b s h]
  · rw [feedStep_zchk b s h hc]

/-- What a FEED step adds on the write port (R28, R128). -/
def State.portWrites (b : Byte) (s : State) : List PortWrite :=
  if s.st = Fsm.readBody ∧ s.cnt ≠ s.len ∧ s.dstGate = true then [⟨s.cnt, b⟩] else []

theorem feedStep_writes : (feedStep b s).writes = s.writes ++ s.portWrites b := by
  unfold State.portWrites
  rcases feed_cases s with h | h | h | ⟨h, hc⟩ | ⟨h, hc⟩ | h | h
  · rw [feedStep_seekHeader1 b s h, h]; simp
  · rw [feedStep_seekHeader2 b s h, h]; simp
  · rw [feedStep_readLen b s h, h]; simp
  · rw [feedStep_data b s h hc, h]; by_cases hg : s.dstGate = true <;> simp [hc, hg]
  · rw [feedStep_zchk b s h hc, h]; simp [hc]
  · rw [feedStep_readChecksum b s h, h]; simp
  · rw [feedStep_illegal b s h]
    have : ∀ c : StCode, Fsm.legal c = false → c ≠ Fsm.readBody := by decide
    simp [this s.st h]

/-- `DST` changes by the writes on the port and by nothing else (R28). -/
theorem feedStep_dst : (feedStep b s).dst =
    (s.portWrites b).foldl (fun m w => Memory.write m w.off.toNat w.data) s.dst := by
  unfold State.portWrites
  rcases feed_cases s with h | h | h | ⟨h, hc⟩ | ⟨h, hc⟩ | h | h
  · rw [feedStep_seekHeader1 b s h, h]; simp
  · rw [feedStep_seekHeader2 b s h, h]; simp
  · rw [feedStep_readLen b s h, h]; simp
  · rw [feedStep_data b s h hc, h]; by_cases hg : s.dstGate = true <;> simp [hc, hg]
  · rw [feedStep_zchk b s h hc, h]; simp [hc]
  · rw [feedStep_readChecksum b s h, h]; simp
  · rw [feedStep_illegal b s h]
    have : ∀ c : StCode, Fsm.legal c = false → c ≠ Fsm.readBody := by decide
    simp [this s.st h]

/-- Every write has an offset below the capacity of a bound destination (R128, R137). -/
theorem State.portWrites_bound (w : PortWrite) (h : w ∈ s.portWrites b) : s.bound = true ∧ w.off < s.cap := by
  unfold State.portWrites at h
  split at h
  · rename_i hg
    obtain rfl := List.mem_singleton.1 h
    simpa [State.dstGate] using hg.2.2
  · exact absurd h (List.not_mem_nil)

/-- What the earlier writes of the command were makes no difference to a FEED step. -/
theorem feedStep_withWrites (ws : List PortWrite) : feedStep b { s with writes := ws } =
    { feedStep b s with writes := ws ++ s.portWrites b } := by
  have hw := feedStep_writes b { s with writes := ws }
  have hp : ({ s with writes := ws } : State).portWrites b = s.portWrites b := rfl
  rw [hp] at hw
  rcases feed_cases s with h | h | h | ⟨h, hc⟩ | ⟨h, hc⟩ | h | h
  · rw [feedStep_seekHeader1 b { s with writes := ws } h] at hw ⊢; rw [feedStep_seekHeader1 b s h]; simpa using hw
  · rw [feedStep_seekHeader2 b { s with writes := ws } h] at hw ⊢; rw [feedStep_seekHeader2 b s h]; simpa using hw
  · rw [feedStep_readLen b { s with writes := ws } h] at hw ⊢; rw [feedStep_readLen b s h]; simpa using hw
  · rw [feedStep_data b { s with writes := ws } h hc] at hw ⊢; rw [feedStep_data b s h hc, ← hw]; simp [State.dstGate]
  · rw [feedStep_zchk b { s with writes := ws } h hc] at hw ⊢; rw [feedStep_zchk b s h hc]; simpa [State.frameReady] using hw
  · rw [feedStep_readChecksum b { s with writes := ws } h] at hw ⊢; rw [feedStep_readChecksum b s h]; simpa [State.frameReady] using hw
  · rw [feedStep_illegal b { s with writes := ws } h] at hw ⊢; rw [feedStep_illegal b s h]; simpa using hw

end Sys2Proof.Machine
end

