-- ==== Sys2Proof/Laws/Drain.lean ====
section
/-! SUPPORT. What a DRAIN can do, said once (41_decoder.md R133, R135): its fuel never runs out, it takes the oldest byte
first, and whatever every micro-step and every gap keeps, the DRAIN keeps. -/

namespace Sys2Proof.Machine

/-- One micro-step of a DRAIN: pop the byte and feed it (R133). -/
def microStep (b : Byte) (rest : List Byte) (s : State) : State := feedStep b { s with src := rest }

/-- One turn of the loop, with a byte in `SRC`. -/
theorem drainLoop_cons (n : Nat) (s : State) (b : Byte) (rest : List Byte) (h : s.src = b :: rest) :
    drainLoop (n + 1) s = if Fsm.legal s.st = true then
      (if (microStep b rest s).ready = true then microStep b rest s else drainLoop n (microStep b rest s).takeGap)
      else bodyIllegal s := by
  simp only [drainLoop, h]
  rfl

/-- The bytes still available after a micro-step and the gap behind it are one fewer. -/
theorem available_microStep (s : State) (b : Byte) (rest : List Byte) (h : s.src = b :: rest) :
    (microStep b rest s).takeGap.available + 1 = s.available := by
  obtain ⟨bytes, n, d, p, hg, hl, -, -⟩ := State.takeGap_eq (microStep b rest s)
  simp only [State.available, hg, h]
  simp only [microStep, feedStep_gaps, feedStep_src, List.length_append, List.length_cons] at hl ⊢
  omega

/-- More fuel than bytes available makes no difference. -/
theorem drainLoop_fuel (n m : Nat) (s : State) (hn : s.available ≤ n) (hm : s.available ≤ m) :
    drainLoop n s = drainLoop m s := by
  induction n generalizing m s with
  | zero =>
    have hsrc : s.src = [] := by
      have : s.src.length ≤ s.available := Nat.le_add_right _ _
      exact List.length_eq_zero_iff.1 (by omega)
    cases m with
    | zero => rfl
    | succ m => simp [drainLoop, hsrc]
  | succ n ih =>
    cases m with
    | zero =>
      have hsrc : s.src = [] := by
        have : s.src.length ≤ s.available := Nat.le_add_right _ _
        exact List.length_eq_zero_iff.1 (by omega)
      simp [drainLoop, hsrc]
    | succ m =>
      cases hsrc : s.src with
      | nil => simp [drainLoop, hsrc]
      | cons b rest =>
        have ha := available_microStep s b rest hsrc
        simp only [drainLoop, hsrc]
        split
        · split
          · rfl
          · exact ih m _ (by unfold microStep at ha; omega) (by unfold microStep at ha; omega)
        · rfl

/-- A DRAIN's loop with the fuel it starts with. -/
def drainAll (s : State) : State := drainLoop s.available s

theorem drainAll_nil (s : State) (h : s.src = []) : drainAll s = s := by
  unfold drainAll
  cases hn : s.available with
  | zero => rfl
  | succ n => simp [drainLoop, h]

theorem drainAll_cons (s : State) (b : Byte) (rest : List Byte) (h : s.src = b :: rest) (hl : Fsm.legal s.st = true) :
    drainAll s = if (microStep b rest s).ready then microStep b rest s else drainAll (microStep b rest s).takeGap := by
  have ha := available_microStep s b rest h
  unfold drainAll
  rw [← ha]
  simp only [drainLoop, h, hl, if_true]
  rfl

theorem drainAll_illegal (s : State) (h : s.src ≠ []) (hl : Fsm.legal s.st = false) : drainAll s = bodyIllegal s := by
  obtain ⟨b, rest, h⟩ := List.exists_cons_of_ne_nil h
  unfold drainAll
  have : s.available = s.available - 1 + 1 := by simp [State.available, h]; omega
  rw [this]
  simp [drainLoop, h, hl]

/-- Whatever the micro-steps and the gaps keep, a DRAIN keeps. -/
theorem drainLoop_induction (P : State → Prop)
    (hfeed : ∀ (s : State) (b : Byte) (rest : List Byte), s.src = b :: rest → Fsm.legal s.st = true → P s →
      P (microStep b rest s))
    (hgap : ∀ s : State, P s → P s.takeGap)
    (hillegal : ∀ s : State, Fsm.legal s.st = false → P s → P (bodyIllegal s))
    (n : Nat) (s : State) (h : P s) : P (drainLoop n s) := by
  induction n generalizing s with
  | zero => exact h
  | succ n ih =>
    cases hsrc : s.src with
    | nil => simpa [drainLoop, hsrc] using h
    | cons b rest =>
      rw [drainLoop_cons n s b rest hsrc]
      split
      · have hm := hfeed s b rest hsrc ‹_› h
        split
        · exact hm
        · exact ih _ (hgap _ hm)
      · rename_i hl
        exact hillegal s (by simpa using hl) h

/-- A simulation that the micro-steps and the gaps keep, and that sees `src`, `st` and `ready`, the DRAINs keep. -/
theorem drainLoop_simulation (R : State → State → Prop)
    (hsee : ∀ s t, R s t → s.src = t.src ∧ s.st = t.st ∧ s.ready = t.ready)
    (hfeed : ∀ s t (b : Byte) (rest : List Byte), R s t → R (microStep b rest s) (microStep b rest t))
    (hgap : ∀ s t, R s t → R s.takeGap t.takeGap)
    (hillegal : ∀ s t, R s t → R (bodyIllegal s) (bodyIllegal t))
    (n : Nat) (s t : State) (h : R s t) : R (drainLoop n s) (drainLoop n t) := by
  induction n generalizing s t with
  | zero => exact h
  | succ n ih =>
    obtain ⟨h1, h2, -⟩ := hsee s t h
    cases hsrc : t.src with
    | nil => simpa [drainLoop, hsrc, h1] using h
    | cons b rest =>
      have hm := hfeed s t b rest h
      rw [drainLoop_cons n s b rest (h1.trans hsrc), drainLoop_cons n t b rest hsrc, h2, (hsee _ _ hm).2.2]
      split
      · split
        · exact hm
        · exact ih _ _ (hgap _ _ hm)
      · exact hillegal s t h

end Sys2Proof.Machine
end

