-- ==== Sys2Proof/Laws/Exec.lean ====
section
/-! SUPPORT. The next state of each instruction in one equation, and sequences of FEEDs. -/

namespace Sys2Proof.Machine

variable (s : State)

@[simp] theorem exec_nop : exec .nop s = .next s.startCommand := rfl
@[simp] theorem exec_feed (b : Byte) : exec (.feed b) s = .next (feedStep b s.startCommand) := rfl
@[simp] theorem exec_drain : exec .drain s = .next (drainAll s.startCommand) := rfl
@[simp] theorem exec_bind (c : Byte) :
    exec (.bind c) s = .next { s.startCommand.markRebind with bound := true, cap := c } := rfl
@[simp] theorem exec_unbind :
    exec .unbind s = .next { s.startCommand.markRebind with bound := false, cap := 0#8 } := rfl
@[simp] theorem exec_encode (l : Byte) :
    exec (.encode l) s = .next (s.startCommand.appendSnk (frameBytes l (s.payload l))) := rfl

/-- The mark of a rebinding, as the one field it may change (R163, R202). -/
theorem State.markRebind_eq : s.markRebind =
    { s with faultMark := if s.midframe then s.faultMark.or (some .rebindMidframe) else s.faultMark } := by
  unfold State.markRebind
  split <;> rfl

/-- The mid-frame test in words (R163). -/
theorem State.midframe_iff : s.midframe = true ↔
    (s.st = Fsm.readBody ∨ s.st = Fsm.readChecksum) ∧ s.cnt ≠ 0#8 := by
  have : ∀ c : Byte, (0#8 < c) ↔ c ≠ 0#8 := by
    intro c
    rw [BitVec.lt_def, ne_eq, ← BitVec.toNat_inj]
    simp; omega
  simp [State.midframe, this]

/-- A case's outcome where R83 selects it. -/
theorem runCase_pos (c : FeedCase) (b : Byte) (body : State → State) (h : s.feedCase b = c) :
    runCase c b body s = .next (body s.startCommand) := by simp [runCase, h]

/-- A case's outcome where R83 does not select it. -/
theorem runCase_neg (c : FeedCase) (b : Byte) (body : State → State) (h : s.feedCase b ≠ c) :
    runCase c b body s = .refused (.caseNotSelected c) := by simp [runCase, h]

/-- A FEED step is the body of the case it selects (R120). -/
theorem feedStep_of_case (b : Byte) (c : FeedCase) : s.feedCase b = c → feedStep b s.startCommand =
    match c with
    | .sh1Hit => bodySh1Hit s.startCommand
    | .sh1Miss => bodySh1Miss s.startCommand
    | .sh2Hit => bodySh2Hit s.startCommand
    | .sh2Rehit => bodySh2Rehit s.startCommand
    | .sh2Miss => bodySh2Miss s.startCommand
    | .rlen => bodyRlen b s.startCommand
    | .rbodyData => bodyRbodyData b s.startCommand
    | .rbodyZchk => bodyRbodyZchk b s.startCommand
    | .rchk => bodyRchk b s.startCommand
    | .illegal => bodyIllegal s.startCommand := by
  intro h
  have hs : s.startCommand.feedCase b = c := h
  unfold feedStep
  rw [hs]
  cases c <;> rfl

/-- A case that completes left the state of the FEED that selects it. -/
theorem runCase_next (c : FeedCase) (b : Byte) (body : State → State) (t : State)
    (hb : s.feedCase b = c → body s.startCommand = feedStep b s.startCommand) (h : runCase c b body s = .next t) :
    t = feedStep b s.startCommand ∧ s.feedCase b = c := by
  unfold runCase at h
  split at h
  · injection h with h
    exact ⟨by rw [← h, hb ‹_›], ‹_›⟩
  · contradiction

/-- An illegal case that completes left the state of the FEED. -/
theorem runIllegal_next (code : StCode) (b : Byte) (t : State) (h : runIllegal code b s = .next t) :
    t = feedStep b s.startCommand ∧ t.ready = false := by
  unfold runIllegal at h
  split at h
  · obtain ⟨ht, hc⟩ := runCase_next s _ b _ t (fun hc => (feedStep_of_case s b _ hc).symm) h
    exact ⟨ht, by rw [ht, feedStep_of_case s b _ hc]; rfl⟩
  · contradiction

/-- A case other than a checksum byte reports nothing. -/
theorem runCase_next_quiet (c : FeedCase) (b : Byte) (body : State → State) (t : State)
    (hb : s.feedCase b = c → body s.startCommand = feedStep b s.startCommand ∧ (body s.startCommand).ready = false)
    (h : runCase c b body s = .next t) : t = feedStep b s.startCommand ∧ t.ready = false := by
  obtain ⟨ht, hc⟩ := runCase_next s c b body t (fun hc => (hb hc).1) h
  exact ⟨ht, by rw [ht, ← (hb hc).1]; exact (hb hc).2⟩

/-- Everything a completing instruction can do: a FEED step (a FEED, a checksum case, or a case that reports nothing), a
DRAIN, a refused word's mark, nothing, a binding, or an append to `SNK`. -/
theorem exec_inversion (i : Instr) (t : State) (h : exec i s = .next t) :
    (∃ b, t = feedStep b s.startCommand ∧
      ((∃ b, i = .feed b) ∨ (∃ b, i = .feedRbodyZchk b) ∨ (∃ b, i = .feedRchk b) ∨ t.ready = false) ∧
      (∀ c, i ≠ .bind c) ∧ i ≠ .unbind ∧ i ≠ .drain ∧ (∀ l, i ≠ .encode l)) ∨
    (i = .drain ∧ t = drainAll s.startCommand) ∨
    (∃ w, t = s.startCommand.refuse w) ∨
    t = s.startCommand ∨
    (∃ c, i = .bind c ∧ t = { s.startCommand.markRebind with bound := true, cap := c }) ∨
    (i = .unbind ∧ t = { s.startCommand.markRebind with bound := false, cap := 0#8 }) ∨
    (∃ l, i = .encode l ∧ t = s.startCommand.appendSnk (frameBytes l (s.payload l))) := by
  cases i
  case readme => cases h
  case nop => injection h with h; exact .inr (.inr (.inr (.inl h.symm)))
  case feed b => injection h with h; exact .inl ⟨b, h.symm, .inl ⟨b, rfl⟩, by simp⟩
  case drain => injection h with h; exact .inr (.inl ⟨rfl, h.symm⟩)
  case bind c => injection h with h; exact .inr (.inr (.inr (.inr (.inl ⟨c, rfl, h.symm⟩))))
  case unbind => injection h with h; exact .inr (.inr (.inr (.inr (.inr (.inl ⟨rfl, h.symm⟩)))))
  case encode l => injection h with h; exact .inr (.inr (.inr (.inr (.inr (.inr ⟨l, rfl, h.symm⟩)))))
  case feedRbodyZchk b =>
    obtain ⟨ht, -⟩ := runCase_next s _ b _ t (fun hc => (feedStep_of_case s b _ hc).symm) h
    exact .inl ⟨b, ht, .inr (.inl ⟨b, rfl⟩), by simp⟩
  case feedRchk b =>
    obtain ⟨ht, -⟩ := runCase_next s _ b _ t (fun hc => (feedStep_of_case s b _ hc).symm) h
    exact .inl ⟨b, ht, .inr (.inr (.inl ⟨b, rfl⟩)), by simp⟩
  case feedIllegal5 b =>
    obtain ⟨ht, hr⟩ := runIllegal_next s _ b t h
    exact .inl ⟨b, ht, .inr (.inr (.inr hr)), by simp⟩
  case feedIllegal6 b =>
    obtain ⟨ht, hr⟩ := runIllegal_next s _ b t h
    exact .inl ⟨b, ht, .inr (.inr (.inr hr)), by simp⟩
  case feedIllegal7 b =>
    obtain ⟨ht, hr⟩ := runIllegal_next s _ b t h
    exact .inl ⟨b, ht, .inr (.inr (.inr hr)), by simp⟩
  case feedSh1Hit =>
    obtain ⟨ht, hr⟩ := runCase_next_quiet s _ _ _ t (fun hc => ⟨(feedStep_of_case s _ _ hc).symm, rfl⟩) h
    exact .inl ⟨_, ht, .inr (.inr (.inr hr)), by simp⟩
  case feedSh1Miss b =>
    obtain ⟨ht, hr⟩ := runCase_next_quiet s _ _ _ t (fun hc => ⟨(feedStep_of_case s _ _ hc).symm, rfl⟩) h
    exact .inl ⟨_, ht, .inr (.inr (.inr hr)), by simp⟩
  case feedSh2Hit =>
    obtain ⟨ht, hr⟩ := runCase_next_quiet s _ _ _ t (fun hc => ⟨(feedStep_of_case s _ _ hc).symm, rfl⟩) h
    exact .inl ⟨_, ht, .inr (.inr (.inr hr)), by simp⟩
  case feedSh2Rehit =>
    obtain ⟨ht, hr⟩ := runCase_next_quiet s _ _ _ t (fun hc => ⟨(feedStep_of_case s _ _ hc).symm, rfl⟩) h
    exact .inl ⟨_, ht, .inr (.inr (.inr hr)), by simp⟩
  case feedSh2Miss b =>
    obtain ⟨ht, hr⟩ := runCase_next_quiet s _ _ _ t (fun hc => ⟨(feedStep_of_case s _ _ hc).symm, rfl⟩) h
    exact .inl ⟨_, ht, .inr (.inr (.inr hr)), by simp⟩
  case feedRlen b =>
    obtain ⟨ht, hr⟩ := runCase_next_quiet s _ _ _ t (fun hc => ⟨(feedStep_of_case s _ _ hc).symm, rfl⟩) h
    exact .inl ⟨_, ht, .inr (.inr (.inr hr)), by simp⟩
  case feedRbodyData b =>
    obtain ⟨ht, hr⟩ := runCase_next_quiet s _ _ _ t
      (fun hc => ⟨(feedStep_of_case s _ _ hc).symm, by simp [bodyRbodyData, State.storeData_eq]⟩) h
    exact .inl ⟨_, ht, .inr (.inr (.inr hr)), by simp⟩
  all_goals (injection h with h; exact .inr (.inr (.inl ⟨_, h.symm⟩)))

@[simp] theorem runFeeds_nil : runFeeds [] s = some ([], s) := rfl

@[simp] theorem runFeeds_cons (b : Byte) (bs : List Byte) : runFeeds (b :: bs) s =
    (runFeeds bs (feedStep b s.startCommand)).map fun r => ((feedStep b s.startCommand).ready :: r.1, r.2) := rfl

/-- A sequence of FEEDs in two parts. -/
theorem runFeeds_append (bs cs : List Byte) : runFeeds (bs ++ cs) s =
    (runFeeds bs s).bind fun r => (runFeeds cs r.2).map fun q => (r.1 ++ q.1, q.2) := by
  induction bs generalizing s with
  | nil => simp
  | cons b bs ih =>
    rw [List.cons_append, runFeeds_cons, ih, runFeeds_cons]
    cases runFeeds bs (feedStep b s.startCommand) with
    | none => rfl
    | some r => simp only [Option.bind_some, Option.map_some, Option.map_map]; rfl

/-- FEEDs always complete. -/
theorem runFeeds_isSome (bs : List Byte) : ∃ rs t, runFeeds bs s = some (rs, t) := by
  induction bs generalizing s with
  | nil => exact ⟨_, _, rfl⟩
  | cons b bs ih =>
    obtain ⟨rs, t, h⟩ := ih (feedStep b s.startCommand)
    exact ⟨_, _, by rw [runFeeds_cons, h]; rfl⟩

end Sys2Proof.Machine
end

