-- ==== Sys2Proof/Laws/Frame.lean ====
section
/-! SUPPORT. The encode function of 40_encoder.md R101: where it is defined, and that ENCODE and the host layer's calls
use it; and what the host layer's filling of `PAY` leaves there. -/

namespace Sys2Proof.Machine

theorem frameOf_of_le (p : List Byte) (h : p.length ≤ 255) : frameOf p = some (frameBytes (BitVec.ofNat 8 p.length) p) :=
  if_pos h

/-- A payload of more than 255 bytes has no frame (R103). -/
theorem frameOf_of_gt (p : List Byte) (h : 255 < p.length) : frameOf p = none := if_neg (Nat.not_le_of_lt h)

/-- Everything a frame can be. -/
theorem frameOf_eq_some_iff (p f : List Byte) :
    frameOf p = some f ↔ p.length ≤ 255 ∧ f = frameBytes (BitVec.ofNat 8 p.length) p := by
  by_cases h : p.length ≤ 255
  · simp [frameOf_of_le p h, h, eq_comm]
  · simp [frameOf_of_gt p (Nat.lt_of_not_le h), h]

@[simp] theorem length_payload (l : Byte) (s : State) : (s.payload l).length = l.toNat := by simp [State.payload]

/-- What ENCODE appends is the frame of the payload it reads (R100). -/
theorem frameOf_payload (l : Byte) (s : State) : frameOf (s.payload l) = some (frameBytes l (s.payload l)) := by
  rw [frameOf_of_le _ (by rw [length_payload]; exact Nat.le_of_lt_succ l.isLt), length_payload, BitVec.ofNat_toNat,
    BitVec.setWidth_eq]

/-- A send makes its calls exactly where there is a frame (R181, R205). -/
theorem addressedSendCalls_eq (a : Nat) (p : List Byte) :
    addressedSendCalls a p = (frameOf p).map fun f => [.begin a, .write f, .finish] := by
  unfold addressedSendCalls sendCalls
  cases frameOf p <;> rfl

/-- Filling `PAY` from an offset on puts the payload there (R181) and changes nothing else (notes/assumptions/21.md). -/
theorem writePayload_eq (p : List Byte) (off : Nat) (s : State) (h : off + p.length ≤ 256) : ∃ d,
    writePayload off p s = { s with pay := d } ∧
    (∀ (i : Nat) (hi : i < p.length), Memory.read d (off + i) = some p[i]) ∧
    (∀ a, a < off ∨ off + p.length ≤ a → Memory.read d a = Memory.read s.pay a) := by
  induction p generalizing off s with
  | nil => exact ⟨s.pay, rfl, fun i hi => absurd hi (Nat.not_lt_zero i), fun _ _ => rfl⟩
  | cons b p ih =>
    rw [List.length_cons] at h
    obtain ⟨d, hd, hin, hout⟩ := ih (off + 1) (applyMove (.writePay (BitVec.ofNat 8 off) b) s) (by omega)
    have hoff : (BitVec.ofNat 8 off).toNat = off := by rw [BitVec.toNat_ofNat]; omega
    have hpay : (applyMove (.writePay (BitVec.ofNat 8 off) b) s).pay = Memory.write s.pay off b := by
      simp only [applyMove, hoff]
    rw [hpay] at hout
    refine ⟨d, hd, fun i hi => ?_, fun a ha => ?_⟩
    · cases i with
      | zero => rw [Nat.add_zero, hout off (.inl (Nat.lt_succ_self off)), Memory.read_write_same]; rfl
      | succ i =>
        have := hin i (Nat.lt_of_succ_lt_succ hi)
        rwa [show off + 1 + i = off + (i + 1) by omega] at this
    · rw [List.length_cons] at ha
      rw [hout a (by omega), Memory.read_write_other _ _ _ _ (by omega)]

end Sys2Proof.Machine
end

