-- ==== Sys2Proof/Laws/PerInstr.lean ====
section
/-! SUPPORT. The per-instruction family RowBits: what the encoder writes for an instruction has the fixed bits of the
instruction's own row of the opcode table. -/

namespace Sys2Proof.Laws.RowBits

/-- A command word matches the row of its mnemonic; a dispatch key and its condition match the row of its case. -/
def Statement (i : Instr) : Prop :=
  match encode i with
  | .command w => ∃ r ∈ commandRows, r.mnemonic = i.mnemonic ∧ w &&& r.mask = r.pattern
  | .key k f => ∃ r ∈ feedRows Config.header1 Config.header2,
      (r.case.instr (k.extractLsb' 8 3) (k.extractLsb' 0 8) = i) ∧ k &&& r.mask = r.pattern ∧
        (r.atLen = none ∨ r.atLen = some f)
  | .absent => i = .readme

/-- A command's row, from the three fields of its word. -/
theorem of_row (i : Instr) (c : BitVec 3) (v : BitVec 5) (o : Byte) (r : CommandRow)
    (he : encode i = .command (c ++ v ++ o)) (hr : r ∈ commandRows) (hm : r.mnemonic = i.mnemonic)
    (hc : c &&& cmdOf r.mask = cmdOf r.pattern) (hv : v &&& rsvOf r.mask = rsvOf r.pattern)
    (ho : o &&& opdOf r.mask = opdOf r.pattern) : Statement i := by
  unfold Statement
  rw [he]
  exact ⟨r, hr, hm, (word_matches_iff _ r.mask r.pattern).2 (by simp [hc, hv, ho])⟩

/-- A dispatch row that fixes the state code only. -/
theorem of_case (i : Instr) (st : StCode) (b : Byte) (f : Bool) (r : FeedRow) (he : encode i = .key (keyOf st b) f)
    (hr : r ∈ feedRows Config.header1 Config.header2) (hc : r.case.instr st b = i) (hm : r.mask = 0x700#11)
    (hp : keyOf st 0#8 = r.pattern) (ha : r.atLen = none ∨ r.atLen = some f) : Statement i := by
  unfold Statement
  rw [he]
  exact ⟨r, hr, by simpa using hc, by rw [hm, keyOf_and_st, hp], ha⟩

/-- A dispatch row that fixes the whole key. -/
theorem of_key (i : Instr) (st : StCode) (b : Byte) (f : Bool) (r : FeedRow) (he : encode i = .key (keyOf st b) f)
    (hr : r ∈ feedRows Config.header1 Config.header2) (hc : r.case.instr st b = i) (hm : r.mask = 0x7FF#11)
    (hp : keyOf st b = r.pattern) (ha : r.atLen = none ∨ r.atLen = some f) : Statement i := by
  unfold Statement
  rw [he]
  exact ⟨r, hr, by simpa using hc, by rw [hm, key_and_all, hp], ha⟩

theorem readme : Statement .readme := rfl

theorem nop : Statement .nop :=
  of_row _ 0#3 0#5 0#8 ⟨"NOP", 0x0000#16, 0xFFFF#16⟩ rfl (by decide) rfl (by decide) (by decide) (by decide)

theorem feed (b : Byte) : Statement (.feed b) :=
  of_row _ 1#3 0#5 b ⟨"FEED", 0x2000#16, 0xFF00#16⟩ rfl (by decide) rfl (by decide) (by decide) BitVec.and_zero

theorem drain : Statement .drain :=
  of_row _ 2#3 0#5 0#8 ⟨"DRAIN", 0x4000#16, 0xFFFF#16⟩ rfl (by decide) rfl (by decide) (by decide) (by decide)

theorem bind (c : Byte) : Statement (.bind c) :=
  of_row _ 3#3 0#5 c ⟨"BIND", 0x6000#16, 0xFF00#16⟩ rfl (by decide) rfl (by decide) (by decide) BitVec.and_zero

theorem unbind : Statement .unbind :=
  of_row _ 4#3 0#5 0#8 ⟨"UNBIND", 0x8000#16, 0xFFFF#16⟩ rfl (by decide) rfl (by decide) (by decide) (by decide)

theorem encode (l : Byte) : Statement (.encode l) :=
  of_row _ 5#3 0#5 l ⟨"ENCODE", 0xA000#16, 0xFF00#16⟩ rfl (by decide) rfl (by decide) (by decide) BitVec.and_zero

theorem reserved110 (low : BitVec 13) : Statement (.reserved110 low) :=
  of_row _ 6#3 (low.extractLsb' 8 5) (low.extractLsb' 0 8) ⟨"RESERVED.110", 0xC000#16, 0xE000#16⟩
    (congrArg Code.command (by unfold word110; grind)) (by decide) rfl (by decide) BitVec.and_zero BitVec.and_zero

theorem reserved111 (low : BitVec 13) : Statement (.reserved111 low) :=
  of_row _ 7#3 (low.extractLsb' 8 5) (low.extractLsb' 0 8) ⟨"RESERVED.111", 0xE000#16, 0xE000#16⟩
    (congrArg Code.command (by unfold word111; grind)) (by decide) rfl (by decide) BitVec.and_zero BitVec.and_zero

theorem reservedRsv0 (cmd : BitVec 3) (hi : BitVec 4) (opd : Byte) : Statement (.reservedRsv0 cmd hi opd) :=
  of_row _ cmd (hi ++ 1#1) opd ⟨"RESERVED.RSV0", 0x0100#16, 0x0100#16⟩ (congrArg Code.command (wordRsv0_fields cmd hi opd))
    (by decide) rfl BitVec.and_zero (by revert hi; decide) BitVec.and_zero

theorem reservedRsv1 (cmd : BitVec 3) (hi : BitVec 3) (opd : Byte) : Statement (.reservedRsv1 cmd hi opd) :=
  of_row _ cmd (hi ++ 2#2) opd ⟨"RESERVED.RSV1", 0x0200#16, 0x0200#16⟩ (congrArg Code.command (wordRsv1_fields cmd hi opd))
    (by decide) rfl BitVec.and_zero (by revert hi; decide) BitVec.and_zero

theorem reservedRsv2 (cmd : BitVec 3) (hi : BitVec 2) (opd : Byte) : Statement (.reservedRsv2 cmd hi opd) :=
  of_row _ cmd (hi ++ 4#3) opd ⟨"RESERVED.RSV2", 0x0400#16, 0x0400#16⟩ (congrArg Code.command (wordRsv2_fields cmd hi opd))
    (by decide) rfl BitVec.and_zero (by revert hi; decide) BitVec.and_zero

theorem reservedRsv3 (cmd : BitVec 3) (hi : BitVec 1) (opd : Byte) : Statement (.reservedRsv3 cmd hi opd) :=
  of_row _ cmd (hi ++ 8#4) opd ⟨"RESERVED.RSV3", 0x0800#16, 0x0800#16⟩ (congrArg Code.command (wordRsv3_fields cmd hi opd))
    (by decide) rfl BitVec.and_zero (by revert hi; decide) BitVec.and_zero

theorem reservedRsv4 (cmd : BitVec 3) (opd : Byte) : Statement (.reservedRsv4 cmd opd) :=
  of_row _ cmd 16#5 opd ⟨"RESERVED.RSV4", 0x1000#16, 0x1000#16⟩ rfl
    (by decide) rfl BitVec.and_zero (by decide) BitVec.and_zero

theorem reservedNopOpd (opd : Byte) : Statement (.reservedNopOpd opd) :=
  of_row _ 0#3 0#5 opd ⟨"RESERVED.NOP_OPD", 0x0000#16, 0xFF00#16⟩ rfl (by decide) rfl (by decide) (by decide) BitVec.and_zero

theorem reservedDrainOpd (opd : Byte) : Statement (.reservedDrainOpd opd) :=
  of_row _ 2#3 0#5 opd ⟨"RESERVED.DRAIN_OPD", 0x4000#16, 0xFF00#16⟩ rfl (by decide) rfl (by decide) (by decide) BitVec.and_zero

theorem reservedUnbindOpd (opd : Byte) : Statement (.reservedUnbindOpd opd) :=
  of_row _ 4#3 0#5 opd ⟨"RESERVED.UNBIND_OPD", 0x8000#16, 0xFF00#16⟩ rfl (by decide) rfl (by decide) (by decide) BitVec.and_zero

theorem feedSh1Hit : Statement .feedSh1Hit :=
  of_key _ Fsm.seekHeader1 Config.header1 false ⟨.sh1Hit, keyOf 0#3 Config.header1, 0x7FF#11, none⟩ rfl
    (by decide) rfl rfl rfl (.inl rfl)

theorem feedSh1Miss (b : Byte) : Statement (.feedSh1Miss b) :=
  of_case _ Fsm.seekHeader1 b false ⟨.sh1Miss, 0x000#11, 0x700#11, none⟩ rfl (by decide) rfl rfl (by decide) (.inl rfl)

theorem feedSh2Hit : Statement .feedSh2Hit :=
  of_key _ Fsm.seekHeader2 Config.header2 false ⟨.sh2Hit, keyOf 1#3 Config.header2, 0x7FF#11, none⟩ rfl
    (by decide) rfl rfl rfl (.inl rfl)

theorem feedSh2Rehit : Statement .feedSh2Rehit :=
  of_key _ Fsm.seekHeader2 Config.header1 false ⟨.sh2Rehit, keyOf 1#3 Config.header1, 0x7FF#11, none⟩ rfl
    (by decide) rfl rfl rfl (.inl rfl)

theorem feedSh2Miss (b : Byte) : Statement (.feedSh2Miss b) :=
  of_case _ Fsm.seekHeader2 b false ⟨.sh2Miss, 0x100#11, 0x700#11, none⟩ rfl (by decide) rfl rfl (by decide) (.inl rfl)

theorem feedRlen (b : Byte) : Statement (.feedRlen b) :=
  of_case _ Fsm.readLen b false ⟨.rlen, 0x200#11, 0x700#11, none⟩ rfl (by decide) rfl rfl (by decide) (.inl rfl)

theorem feedRbodyData (b : Byte) : Statement (.feedRbodyData b) :=
  of_case _ Fsm.readBody b false ⟨.rbodyData, 0x300#11, 0x700#11, some false⟩ rfl (by decide) rfl rfl (by decide) (.inr rfl)

theorem feedRbodyZchk (b : Byte) : Statement (.feedRbodyZchk b) :=
  of_case _ Fsm.readBody b true ⟨.rbodyZchk, 0x300#11, 0x700#11, some true⟩ rfl (by decide) rfl rfl (by decide) (.inr rfl)

theorem feedRchk (b : Byte) : Statement (.feedRchk b) :=
  of_case _ Fsm.readChecksum b false ⟨.rchk, 0x400#11, 0x700#11, none⟩ rfl (by decide) rfl rfl (by decide) (.inl rfl)

theorem feedIllegal5 (b : Byte) : Statement (.feedIllegal5 b) :=
  of_case _ 5#3 b false ⟨.illegal, 0x500#11, 0x700#11, none⟩ rfl (by decide) rfl rfl (by decide) (.inl rfl)

theorem feedIllegal6 (b : Byte) : Statement (.feedIllegal6 b) :=
  of_case _ 6#3 b false ⟨.illegal, 0x600#11, 0x700#11, none⟩ rfl (by decide) rfl rfl (by decide) (.inl rfl)

theorem feedIllegal7 (b : Byte) : Statement (.feedIllegal7 b) :=
  of_case _ 7#3 b false ⟨.illegal, 0x700#11, 0x700#11, none⟩ rfl (by decide) rfl rfl (by decide) (.inl rfl)

end Sys2Proof.Laws.RowBits
end

