-- ==== Sys2Proof/Tests/Slice0.lean ====
section
/-! SUPPORT. The model's own tests: the WellFormed smoke tests, a word or key written out for every constructor, single
steps of spec/95_test_vectors.md and of the rules' own examples, and a witness for the hypotheses of every obligation. -/

namespace Sys2Proof.Tests

open Sys2Proof.Machine

/-! ## Well-formedness: an ill-formed term for each check, which the check refuses (30_encoding.md R81, R83) -/

theorem test_wf_refuses_the_note : Instr.wf .readme = false := by decide
theorem test_wf_rsv0_keeps_out_code_110 : Instr.wf (.reservedRsv0 6#3 0#4 0#8) = false := by decide
theorem test_wf_rsv1_keeps_out_code_111 : Instr.wf (.reservedRsv1 7#3 0#3 0#8) = false := by decide
theorem test_wf_rsv2_keeps_out_code_110 : Instr.wf (.reservedRsv2 6#3 0#2 0#8) = false := by decide
theorem test_wf_rsv3_keeps_out_code_111 : Instr.wf (.reservedRsv3 7#3 0#1 0#8) = false := by decide
theorem test_wf_rsv4_keeps_out_code_110 : Instr.wf (.reservedRsv4 6#3 0#8) = false := by decide
theorem test_wf_nop_opd_keeps_out_zero : Instr.wf (.reservedNopOpd 0x00#8) = false := by decide
theorem test_wf_drain_opd_keeps_out_zero : Instr.wf (.reservedDrainOpd 0x00#8) = false := by decide
theorem test_wf_unbind_opd_keeps_out_zero : Instr.wf (.reservedUnbindOpd 0x00#8) = false := by decide
theorem test_wf_sh1_miss_keeps_out_header1 : Instr.wf (.feedSh1Miss 0x06#8) = false := by decide
theorem test_wf_sh2_miss_keeps_out_header1 : Instr.wf (.feedSh2Miss 0x06#8) = false := by decide
theorem test_wf_sh2_miss_keeps_out_header2 : Instr.wf (.feedSh2Miss 0x85#8) = false := by decide
theorem test_wf_admits_header2_as_an_sh1_miss : Instr.wf (.feedSh1Miss 0x85#8) = true := by decide

/-! ## Decoding: the words of R80 and R81, bit by bit as cmd, rsv and opd -/

theorem test_decode_nop : decode 0b000_00000_00000000#16 = .nop := by decide
theorem test_decode_feed : decode 0b001_00000_10000101#16 = .feed 0x85#8 := by decide
theorem test_decode_drain : decode 0b010_00000_00000000#16 = .drain := by decide
theorem test_decode_bind : decode 0b011_00000_00000010#16 = .bind 2#8 := by decide
theorem test_decode_unbind : decode 0b100_00000_00000000#16 = .unbind := by decide
theorem test_decode_encode : decode 0b101_00000_11111111#16 = .encode 255#8 := by decide
theorem test_decode_110 : decode 0b110_00001_00000010#16 = .reserved110 0b00001_00000010#13 := by decide
theorem test_decode_111 : decode 0b111_00000_11111111#16 = .reserved111 0b00000_11111111#13 := by decide
theorem test_decode_rsv0 : decode 0b001_10101_00000111#16 = .reservedRsv0 1#3 0b1010#4 7#8 := by decide
theorem test_decode_rsv1 : decode 0b011_10110_00000111#16 = .reservedRsv1 3#3 0b101#3 7#8 := by decide
theorem test_decode_rsv2 : decode 0b101_01100_00000111#16 = .reservedRsv2 5#3 0b01#2 7#8 := by decide
theorem test_decode_rsv3 : decode 0b000_11000_00000111#16 = .reservedRsv3 0#3 0b1#1 7#8 := by decide
theorem test_decode_rsv4 : decode 0b010_10000_00000111#16 = .reservedRsv4 2#3 7#8 := by decide
theorem test_decode_nop_opd : decode 0b000_00000_00000001#16 = .reservedNopOpd 1#8 := by decide
theorem test_decode_drain_opd : decode 0b010_00000_00000001#16 = .reservedDrainOpd 1#8 := by decide
theorem test_decode_unbind_opd : decode 0b100_00000_00000101#16 = .reservedUnbindOpd 5#8 := by decide

/-! The keys of R83, as the state code and the byte. -/

theorem test_decode_sh1_hit : decodeKey 0b000_00000110#11 false = .feedSh1Hit := by decide
theorem test_decode_sh1_miss : decodeKey 0b000_10000101#11 false = .feedSh1Miss 0x85#8 := by decide
theorem test_decode_sh2_hit : decodeKey 0b001_10000101#11 false = .feedSh2Hit := by decide
theorem test_decode_sh2_rehit : decodeKey 0b001_00000110#11 false = .feedSh2Rehit := by decide
theorem test_decode_sh2_miss : decodeKey 0b001_00000000#11 false = .feedSh2Miss 0x00#8 := by decide
theorem test_decode_rlen : decodeKey 0b010_00000110#11 false = .feedRlen 0x06#8 := by decide
theorem test_decode_rbody_data : decodeKey 0b011_01000010#11 false = .feedRbodyData 0x42#8 := by decide
theorem test_decode_rbody_zchk : decodeKey 0b011_00000000#11 true = .feedRbodyZchk 0x00#8 := by decide
theorem test_decode_rchk : decodeKey 0b100_00000001#11 true = .feedRchk 0x01#8 := by decide
theorem test_decode_illegal5 : decodeKey 0b101_00000110#11 false = .feedIllegal5 0x06#8 := by decide
theorem test_decode_illegal6 : decodeKey 0b110_10000101#11 false = .feedIllegal6 0x85#8 := by decide
theorem test_decode_illegal7 : decodeKey 0b111_11111111#11 true = .feedIllegal7 0xFF#8 := by decide

theorem test_table_word_command : decodeTableWord 16 0x6002 = some (.bind 2#8) := by decide
theorem test_table_word_key : decodeTableWord 11 0x185 = some .feedSh2Hit := by decide
theorem test_table_word_key_too_wide : decodeTableWord 11 0x800 = none := by decide
theorem test_table_word_too_wide : decodeTableWord 16 0x10000 = none := by decide

/-! ## One step at a time -/

/-- A block with these registers, as R34 gives the rest. -/
def block (st : StCode) (acc len cnt : Byte) (bound : Bool) (cap : Byte) : State :=
  { State.reset with st := st, acc := acc, len := len, cnt := cnt, bound := bound, cap := cap }

/-- The state an instruction goes on to, if it goes on. -/
def nextOf : Host.Outcome State Fault Refusal → Option State
  | .next t => some t
  | _ => none

/-- A field of the state an instruction goes on to. -/
def after {α : Type} (i : Instr) (s : State) (f : State → α) : Option α := (nextOf (exec i s)).map f

/-- R160's example; `ready` and the writes are the last command's (R27, R28). -/
theorem test_nop : nextOf (exec .nop { State.reset with ready := true, writes := [⟨0#8, 1#8⟩] }) = some State.reset := by
  decide

/-- R130's example: the last byte of V-D1. -/
theorem test_feed_completes : after (.feed 0x01#8) (block 4#3 0x01#8 2#8 2#8 true 2#8) (fun t => (t.ready, t.st)) =
    some (true, 0#3) := by decide

/-- V-D6's twelfth byte: with `cnt = cap` the byte is folded and counted, and not written. -/
theorem test_feed_truncates : after (.feed 0x14#8) (block 3#3 0x0A#8 10#8 4#8 true 4#8)
    (fun t => (t.acc, t.cnt, t.writes, t.dst)) = some (0x1E#8, 5#8, [], []) := by decide

/-- V-D12, first DRAIN. -/
theorem test_drain_stops_at_completion :
    after .drain { block 0#3 0#8 0#8 0#8 true 0#8 with src := [0x06#8, 0x85#8, 0x00#8, 0x00#8, 0x06#8, 0x85#8] }
      (fun t => (t.ready, t.src, t.st)) = some (true, [0x06#8, 0x85#8], 0#3) := by decide

/-- P1, step 4, with the last three bytes arriving in a gap. -/
theorem test_drain_takes_arrivals :
    after .drain { block 0#3 0#8 0#8 0#8 true 2#8 with
        src := [0x06#8, 0x85#8, 0x02#8], gaps := [[], [.appendSrc [0x41#8, 0x42#8, 0x01#8]]] }
      (fun t => (t.ready, t.src, t.dst, t.acc)) = some (true, [], [(0, 0x41#8), (1, 0x42#8)], 0x01#8) := by decide

/-- R161's example. -/
theorem test_bind : after (.bind 2#8) State.reset (fun t => (t.bound, t.cap, t.st, t.faultMark)) =
    some (true, 2#8, 0#3, none) := by decide

/-- V-D16: mid-frame. -/
theorem test_bind_midframe : after (.bind 4#8) (block 3#3 0x43#8 2#8 1#8 true 2#8) (fun t => (t.cap, t.cnt, t.faultMark)) =
    some (4#8, 1#8, some .rebindMidframe) := by decide

/-- V-D17b: in `READ_BODY` with `cnt = 0`. -/
theorem test_unbind : after .unbind (block 3#3 2#8 2#8 0#8 true 2#8) (fun t => (t.bound, t.cap, t.st, t.faultMark)) =
    some (false, 0#8, 3#3, none) := by decide

/-- R162, R163: in `READ_CHECKSUM`. -/
theorem test_unbind_midframe : after .unbind (block 4#3 1#8 2#8 2#8 true 2#8) (fun t => (t.bound, t.faultMark)) =
    some (false, some .rebindMidframe) := by decide

/-- V-E2, behind what `SNK` held. -/
theorem test_encode : after (.encode 2#8) { State.reset with pay := [(0, 0x41#8), (1, 0x42#8)], snk := [0xEE#8] } (·.snk) =
    some [0xEE#8, 0x06#8, 0x85#8, 0x02#8, 0x41#8, 0x42#8, 0x01#8] := by decide

/-- V-E1, in the middle of a frame: it reads no byte of `PAY`. -/
theorem test_encode_empty : nextOf (exec (.encode 0#8) (block 3#3 0x43#8 2#8 1#8 true 2#8)) =
    some { block 3#3 0x43#8 2#8 1#8 true 2#8 with snk := [0x06#8, 0x85#8, 0x00#8, 0x00#8] } := by decide

/-- What a refused word leaves right after reset (V-D18, R166). -/
def refusedWith (w : Word) : Option State := some { State.reset with refusedMark := some (.reservedCmd w) }

theorem test_reserved_110 : nextOf (exec (decode 0xC000#16) State.reset) = refusedWith 0xC000#16 := by decide
theorem test_reserved_111 : nextOf (exec (decode 0xE0FF#16) State.reset) = refusedWith 0xE0FF#16 := by decide
theorem test_reserved_rsv0 : nextOf (exec (decode 0x2100#16) State.reset) = refusedWith 0x2100#16 := by decide
theorem test_reserved_rsv1 : nextOf (exec (decode 0x6200#16) State.reset) = refusedWith 0x6200#16 := by decide
theorem test_reserved_rsv2 : nextOf (exec (decode 0xA4FF#16) State.reset) = refusedWith 0xA4FF#16 := by decide
theorem test_reserved_rsv3 : nextOf (exec (decode 0x0801#16) State.reset) = refusedWith 0x0801#16 := by decide
theorem test_reserved_rsv4 : nextOf (exec (decode 0x5000#16) State.reset) = refusedWith 0x5000#16 := by decide
theorem test_reserved_nop_opd : nextOf (exec (decode 0x0001#16) State.reset) = refusedWith 0x0001#16 := by decide
theorem test_reserved_drain_opd : nextOf (exec (decode 0x4001#16) State.reset) = refusedWith 0x4001#16 := by decide
theorem test_reserved_unbind_opd : nextOf (exec (decode 0x8005#16) State.reset) = refusedWith 0x8005#16 := by decide

/-! The examples of R121 to R132. -/

theorem test_sh1_hit : after .feedSh1Hit State.reset (·.st) = some Fsm.seekHeader2 := by decide
theorem test_sh1_miss : nextOf (exec (.feedSh1Miss 0x85#8) State.reset) = some State.reset := by decide
theorem test_sh2_hit : after .feedSh2Hit (block 1#3 0#8 0#8 0#8 false 0#8) (·.st) = some Fsm.readLen := by decide
theorem test_sh2_rehit : after .feedSh2Rehit (block 1#3 0#8 0#8 0#8 false 0#8) (·.st) = some Fsm.seekHeader2 := by decide
theorem test_sh2_miss : after (.feedSh2Miss 0x00#8) (block 1#3 0#8 0#8 0#8 false 0#8) (·.st) = some Fsm.seekHeader1 := by
  decide
theorem test_rlen : after (.feedRlen 0x02#8) (block 2#3 9#8 9#8 9#8 true 2#8) (fun t => (t.len, t.acc, t.cnt, t.st)) =
    some (2#8, 2#8, 0#8, 3#3) := by decide
theorem test_rbody_data : after (.feedRbodyData 0x42#8) (block 3#3 0x43#8 2#8 1#8 true 2#8)
    (fun t => (t.dst, t.acc, t.cnt, t.st)) = some ([(1, 0x42#8)], 0x01#8, 2#8, 4#3) := by decide
theorem test_rbody_zchk : after (.feedRbodyZchk 0x00#8) (block 3#3 0#8 0#8 0#8 true 0#8) (fun t => (t.ready, t.st)) =
    some (true, 0#3) := by decide
theorem test_rchk_mismatch : after (.feedRchk 0x43#8) (block 4#3 0x01#8 2#8 2#8 true 2#8) (fun t => (t.ready, t.st)) =
    some (false, 0#3) := by decide
theorem test_rchk_unbound : after (.feedRchk 0x01#8) (block 4#3 0x01#8 2#8 2#8 false 0#8) (fun t => (t.ready, t.st)) =
    some (false, 0#3) := by decide
theorem test_illegal5 : nextOf (exec (.feedIllegal5 0x06#8) (block 5#3 1#8 2#8 3#8 true 4#8)) =
    some { block 5#3 1#8 2#8 3#8 true 4#8 with faultMark := some (.illegalState 5#3) } := by decide
theorem test_illegal6 : after (.feedIllegal6 0x00#8) (block 6#3 0#8 0#8 0#8 false 0#8) (·.faultMark) =
    some (some (.illegalState 6#3)) := by decide
theorem test_illegal7_keeps_the_first_reason :
    after (.feedIllegal7 0x00#8) { block 7#3 0#8 0#8 0#8 false 0#8 with faultMark := some .rebindMidframe } (·.faultMark) =
    some (some .rebindMidframe) := by decide

/-- A step: the host delivers a byte and presents DRAIN (R11, R184). -/
theorem test_step :
    (nextOf (step { State.reset with turns := [⟨[.move (.appendSrc [0x06#8])], 0x4000#16⟩, ⟨[], 0x0000#16⟩] })).map
      (fun t => (t.st, t.src, t.turns)) = some (1#3, [], [⟨[], 0x0000#16⟩]) := by decide

/-- A step after a reset by the host: the streams and `DST` stay (R230). -/
theorem test_step_after_reset :
    nextOf (step { block 3#3 1#8 2#8 1#8 true 4#8 with
      faultMark := some .rebindMidframe, dst := [(0, 7#8)], src := [1#8], turns := [⟨[.reset], 0x0000#16⟩] }) =
    some { State.reset with dst := [(0, 7#8)], src := [1#8] } := by decide

theorem test_fetch_word : (nextOf (step (State.reset.withFetchWord 16 0x6002))).map (fun t => (t.bound, t.cap, t.turns)) =
    some (true, 2#8, []) := by decide

theorem test_fetch_key : (nextOf (step (State.reset.withFetchWord 11 0x185))).map (·.st) = some Fsm.readLen := by decide

/-- R181, R205. -/
theorem test_send : (nextOf (sendPayload [0x41#8, 0x42#8] State.reset)).map (·.snk) =
    some [0x06#8, 0x85#8, 0x02#8, 0x41#8, 0x42#8, 0x01#8] := by decide

/-- R103, R205: at 256 bytes nothing is sent and no length wraps to 0. -/
theorem test_send_too_long (address : Nat) : sendCalls (List.replicate 256 0x00#8) = none ∧
    addressedSendCalls address (List.replicate 256 0x00#8) = none := by
  rw [addressedSendCalls_eq, sendCalls, frameOf_of_gt _ (by rw [List.length_replicate]; decide)]
  exact ⟨rfl, rfl⟩

/-! ## Witnesses: a state and operands that meet the hypotheses of each obligation, clause by clause -/

/-- A receiving block in the last place of the longest payload: `cnt = 254`, `len = cap = 255`. -/
def lastByte : State := block 3#3 0x00#8 255#8 254#8 true 255#8

theorem lastByte_inv : lastByte.Inv := by
  refine ⟨by decide, by decide, ?_, ?_, ?_, by decide, by decide⟩ <;> decide

theorem witness_EveryStepKeepsInvariant : { lastByte with turns := [⟨[.reset], 0x4000#16⟩] }.Inv ∧
    ∃ t, step { lastByte with turns := [⟨[.reset], 0x4000#16⟩] } = .next t :=
  ⟨⟨by decide, by decide, by decide, by decide, by decide, by decide, by decide⟩, _, rfl⟩

theorem witness_StepRunsThePresentedInstruction :
    { State.reset with turns := [⟨[], 0xA0FF#16⟩] }.turns = ⟨[], 0xA0FF#16⟩ :: [] ∧ decode 0xA0FF#16 = .encode 255#8 := by
  decide

theorem witness_StepWaitsForACommand : State.reset.turns = [] := by decide

theorem witness_DecodeInvertsEncode : (Instr.encode 255#8).wf = true ∧ (Instr.reservedRsv4 5#3 255#8).wf = true ∧
    (Instr.feedSh2Miss 0xFF#8).wf = true := by decide

/-- The three kinds of refused word, at their edges. -/
theorem witness_WordsAreCommandsOrRefused_refused :
    cmdOf 0xC000#16 = 6#3 ∧ cmdOf 0xFFFF#16 = 7#3 ∧ rsvOf 0x2100#16 ≠ 0#5 ∧ rsvOf 0xBF00#16 ≠ 0#5 ∧
    (cmdOf 0x0001#16 = 0#3 ∧ opdOf 0x0001#16 ≠ 0#8) ∧ (cmdOf 0x40FF#16 = 2#3 ∧ opdOf 0x40FF#16 ≠ 0#8) ∧
    (cmdOf 0x8001#16 = 4#3 ∧ opdOf 0x8001#16 ≠ 0#8) := by decide

/-- A word of none of the three refused kinds (R81), with this code. -/
def legalAs (w : Word) (cmd : BitVec 3) : Bool :=
  cmdOf w == cmd && !(cmdOf w == 6#3 || cmdOf w == 7#3 || rsvOf w != 0#5 ||
    ((cmdOf w == 0#3 || cmdOf w == 2#3 || cmdOf w == 4#3) && opdOf w != 0#8))

/-- A legal word for each command, at the edges of its operand. -/
theorem witness_WordsAreCommandsOrRefused_commands :
    legalAs 0x0000#16 0#3 = true ∧ legalAs 0x2000#16 1#3 = true ∧ legalAs 0x20FF#16 1#3 = true ∧
    legalAs 0x4000#16 2#3 = true ∧ legalAs 0x60FF#16 3#3 = true ∧ legalAs 0x8000#16 4#3 = true ∧
    legalAs 0xA0FF#16 5#3 = true := by decide

theorem witness_FeedRunsItsSelectedCase : Fsm.legal (block 4#3 0#8 0#8 0#8 true 0#8).st = true ∧
    Fsm.legal (block 5#3 0#8 0#8 0#8 true 0#8).st = false := by decide

/-- Reset selects a SEEK_HEADER_1 case; `READ_LEN` selects none of those. -/
theorem witness_UnselectedCasesStop :
    (block 2#3 0#8 0#8 0#8 false 0#8).feedCase 0x06#8 ≠ .sh1Hit ∧ (block 2#3 0#8 0#8 0#8 false 0#8).feedCase 0x00#8 ≠ .sh1Miss ∧
    State.reset.feedCase 0x85#8 ≠ .sh2Hit ∧ State.reset.feedCase 0x06#8 ≠ .sh2Rehit ∧
    State.reset.feedCase 0x00#8 ≠ .sh2Miss ∧ State.reset.feedCase 0x00#8 ≠ .rlen ∧
    State.reset.feedCase 0x00#8 ≠ .rbodyData ∧ State.reset.feedCase 0x00#8 ≠ .rbodyZchk ∧
    State.reset.feedCase 0x00#8 ≠ .rchk ∧ State.reset.st ≠ 5#3 ∧ State.reset.st ≠ 6#3 ∧ State.reset.st ≠ 7#3 := by decide

theorem witness_SeekHeader1 : State.reset.st = Fsm.seekHeader1 ∧ 0x006#11 &&& 0x7FF#11 = 0x006#11 ∧
    (0x0FF#11 &&& 0x700#11 = 0x000#11 ∧ 0x0FF#11 &&& 0x7FF#11 ≠ 0x006#11) ∧ 0xFF#8 ≠ 0x06#8 := by decide

theorem witness_SeekHeader2 : (block 1#3 0#8 0#8 0#8 true 0#8).st = Fsm.seekHeader2 ∧
    0x185#11 &&& 0x7FF#11 = 0x185#11 ∧ 0x106#11 &&& 0x7FF#11 = 0x106#11 ∧
    (0x100#11 &&& 0x700#11 = 0x100#11 ∧ 0x100#11 &&& 0x7FF#11 ≠ 0x185#11 ∧ 0x100#11 &&& 0x7FF#11 ≠ 0x106#11) ∧
    0x00#8 ≠ 0x85#8 ∧ 0x00#8 ≠ 0x06#8 := by decide

theorem witness_ReadLen : (block 2#3 0#8 0#8 0#8 true 0#8).st = Fsm.readLen ∧ 0x2FF#11 &&& 0x700#11 = 0x200#11 := by decide

/-- A data byte written in the last place, one dropped at `cnt = cap`, and one dropped unbound. -/
theorem witness_DataByteIsFoldedCountedAndWritten :
    0x3FF#11 &&& 0x700#11 = 0x300#11 ∧ lastByte.st = Fsm.readBody ∧ lastByte.cnt ≠ lastByte.len ∧
    (lastByte.bound = true ∧ lastByte.cnt < lastByte.cap) ∧
    ¬ ((block 3#3 0#8 10#8 4#8 true 4#8).bound = true ∧ (block 3#3 0#8 10#8 4#8 true 4#8).cnt < 4#8) ∧
    ¬ ((block 3#3 0#8 10#8 4#8 false 0#8).bound = true) ∧ 0 ≠ lastByte.cnt.toNat := by decide

theorem witness_ZeroLengthChecksumByte : (block 3#3 0#8 0#8 0#8 true 0#8).Inv ∧
    (block 3#3 0#8 0#8 0#8 true 0#8).st = Fsm.readBody ∧
    (block 3#3 0#8 0#8 0#8 true 0#8).cnt = (block 3#3 0#8 0#8 0#8 true 0#8).len :=
  ⟨⟨by decide, by decide, by decide, by decide, by decide, by decide, by decide⟩, by decide, by decide⟩

theorem witness_ChecksumByteEndsTheAttempt : 0x406#11 &&& 0x700#11 = 0x400#11 ∧
    (block 4#3 0x06#8 1#8 1#8 true 0#8).st = Fsm.readChecksum := by decide

theorem witness_IllegalStateSetsTheFaultMark : (block 5#3 0#8 0#8 0#8 true 0#8).st = 5#3 ∧
    (block 6#3 0#8 0#8 0#8 true 0#8).st = 6#3 ∧ (block 7#3 0#8 0#8 0#8 true 0#8).st = 7#3 := by decide

theorem witness_DrainOfAnEmptySourceIsANoOp : (block 3#3 0x43#8 2#8 1#8 true 2#8).src = [] := by decide

/-- One byte that completes a frame, and one that does not. -/
theorem witness_DrainFeedsTheOldestByteFirst :
    (∃ u, exec (.feed 0x01#8) (block 4#3 0x01#8 2#8 2#8 true 2#8) = .next u ∧ u.ready = true) ∧
    (∃ u, exec (.feed 0x06#8) State.reset = .next u ∧ u.ready = false) ∧
    State.reset.src = [] ∧ Fsm.legal (block 4#3 0x01#8 2#8 2#8 true 2#8).st = true ∧
    { block 4#3 0x01#8 2#8 2#8 true 2#8 with src := [0x01#8] }.src = 0x01#8 :: [] :=
  ⟨⟨_, rfl, by decide⟩, ⟨_, rfl, by decide⟩, by decide, by decide, by decide⟩

theorem witness_DrainEndsWhenDone : Fsm.legal { block 4#3 1#8 2#8 2#8 true 2#8 with src := [0x43#8] }.st = true := by decide

theorem witness_DrainInAnIllegalStateMarksAndEnds : Fsm.legal (block 5#3 0#8 0#8 0#8 true 0#8).st = false ∧
    { block 5#3 0#8 0#8 0#8 true 0#8 with src := [0x06#8] }.src ≠ [] := by decide

/-- V-D12 as the FEEDs that DRAIN is. -/
theorem witness_DrainStopsAtTheFirstCompletion :
    let s : State := { block 0#3 0#8 0#8 0#8 true 0#8 with src := [0x06#8, 0x85#8, 0x00#8, 0x00#8, 0x06#8, 0x85#8] }
    s.gaps = [] ∧ Fsm.legal s.st = true ∧ s.src = [0x06#8, 0x85#8, 0x00#8, 0x00#8] ++ [0x06#8, 0x85#8] ∧
    ∃ t, runFeeds [0x06#8, 0x85#8, 0x00#8, 0x00#8] { s with src := [0x06#8, 0x85#8] } =
      some (List.replicate 3 false ++ [true], t) :=
  ⟨by decide, by decide, by decide, _, rfl⟩

theorem witness_DrainReceivesAFrame :
    let s : State := { block 1#3 0#8 0#8 0#8 true 1#8 with src := [0x06#8, 0x85#8, 0x02#8, 0xAA#8, 0xBB#8, 0x13#8, 0x06#8] }
    s.gaps = [] ∧ s.bound = true ∧ s.st = Fsm.seekHeader2 ∧ 
    frameOf [0xAA#8, 0xBB#8] = some [0x06#8, 0x85#8, 0x02#8, 0xAA#8, 0xBB#8, 0x13#8] ∧
    s.src = [0x06#8, 0x85#8, 0x02#8, 0xAA#8, 0xBB#8, 0x13#8] ++ [0x06#8] ∧
    (0 < 2 ∧ 0 < s.cap.toNat) ∧ s.cap.toNat ≤ 1 := by decide

theorem witness_EncodeAppendsTheFrameOfThePayload :
    Memory.read { State.reset with pay := [(0, 0x41#8), (254, 0x42#8)] }.pay 254 = some 0x42#8 := by decide

theorem witness_FramesAreWellFormedAndInjective : ([] : List Byte).length ≤ 255 ∧
    (List.replicate 255 0xAA#8).length ≤ 255 ∧ 255 < (List.replicate 256 0xAA#8).length ∧ frameOf [] = frameOf [] :=
  ⟨by decide, by rw [List.length_replicate], by rw [List.length_replicate]; decide, rfl⟩

theorem witness_WellFormedFramesAreEncodings : isFrame [0x06#8, 0x85#8, 0x02#8, 0x06#8, 0x85#8, 0x81#8] = true := by decide

theorem witness_FoldDoesNotDependOnOrder : [0x06#8, 0x85#8].Perm [0x85#8, 0x06#8] := List.Perm.swap _ _ _

theorem witness_SendRefusesOrAppendsTheFrame : 255 < (List.replicate 256 0#8).length ∧
    (List.replicate 255 0#8).length ≤ 255 :=
  ⟨by rw [List.length_replicate]; decide, by rw [List.length_replicate]⟩

/-- A batch that completes no frame, and one that completes a frame. -/
theorem witness_RequestEndsAtTheFirstCompletion :
    (∃ t, exec .drain ((block 0#3 0#8 0#8 0#8 true 2#8).appendSrc [0x06#8, 0x85#8, 0x00#8]) = .next t ∧ t.ready = false) ∧
    (∃ t, exec .drain ((block 0#3 0#8 0#8 0#8 true 2#8).appendSrc [0x06#8, 0x85#8, 0x00#8, 0x00#8]) = .next t ∧
      t.ready = true) := ⟨⟨_, rfl, by decide⟩, ⟨_, rfl, by decide⟩⟩

/-- Both sides of the mid-frame test, at its edge: `cnt` is 0 or 1 in `READ_BODY`. -/
theorem witness_BindAndUnbind :
    let s : State := block 3#3 2#8 2#8 0#8 true 2#8
    let t : State := block 3#3 0x43#8 2#8 1#8 true 2#8
    ¬ ((s.st = Fsm.readBody ∨ s.st = Fsm.readChecksum) ∧ s.cnt ≠ 0#8) ∧
    ((t.st = Fsm.readBody ∨ t.st = Fsm.readChecksum) ∧ t.cnt ≠ 0#8) := by decide

theorem witness_RefusesWord : State.reset.refusedMark = none ∧
    { State.reset with refusedMark := some (.reservedCmd 0xC000#16) }.refusedMark = some (.reservedCmd 0xC000#16) := by decide

theorem witness_MarksAreSticky :
    let s : State := { lastByte with faultMark := some .rebindMidframe, refusedMark := some (.reservedCmd 0xFFFF#16) }
    (∃ t, exec .unbind s = .next t) ∧ s.faultMark = some .rebindMidframe ∧
    s.refusedMark = some (.reservedCmd 0xFFFF#16) := ⟨⟨_, rfl⟩, by decide, by decide⟩

theorem witness_MarksNeverAffectBehaviour : ∃ t, exec (.feed 0xFF#8) lastByte = .next t := ⟨_, rfl⟩

theorem witness_DstIsNeverRead : ∃ t, exec .drain { lastByte with src := [1#8, 2#8] } = .next t := ⟨_, rfl⟩

/-- A rebinding that faults, and a word that is refused. -/
theorem witness_MarksAriseOnlyWhereTheRulesSay : lastByte.Inv ∧
    (∃ t, exec (.bind 1#8) lastByte = .next t ∧ t.faultMark ≠ lastByte.faultMark) ∧
    (∃ t, exec (.reserved111 0#13) lastByte = .next t ∧ t.refusedMark ≠ lastByte.refusedMark) :=
  ⟨lastByte_inv, ⟨_, rfl, by decide⟩, ⟨_, rfl, by decide⟩⟩

theorem witness_OnlyFeedAndDrainReportAFrame :
    (∃ t, exec (.feed 0x01#8) (block 4#3 0x01#8 2#8 2#8 true 2#8) = .next t ∧ t.ready = true) ∧
    (∃ t, exec .drain { block 4#3 0x01#8 2#8 2#8 true 2#8 with src := [0x01#8] } = .next t ∧ t.ready = true) ∧
    (∃ t, exec (.feedRbodyZchk 0x00#8) (block 3#3 0#8 0#8 0#8 true 0#8) = .next t ∧ t.ready = true) ∧
    (∃ t, exec (.feedRchk 0x01#8) (block 4#3 0x01#8 2#8 2#8 true 2#8) = .next t ∧ t.ready = true) :=
  ⟨⟨_, rfl, by decide⟩, ⟨_, rfl, by decide⟩, ⟨_, rfl, by decide⟩, ⟨_, rfl, by decide⟩⟩

/-- V-D10's last byte. -/
theorem witness_UnboundDecoderReportsAndWritesNothing :
    (block 4#3 0x01#8 2#8 2#8 false 0#8).bound = false ∧
    ∃ t, exec (.feed 0x01#8) (block 4#3 0x01#8 2#8 2#8 false 0#8) = .next t := ⟨by decide, _, rfl⟩

theorem witness_OnlyBindAndUnbindChangeTheBinding : (∃ t, exec (.encode 0#8) lastByte = .next t) ∧
    (∀ c, Instr.encode 0#8 ≠ .bind c) ∧ Instr.encode 0#8 ≠ .unbind := ⟨⟨_, rfl⟩, by simp, by simp⟩

theorem witness_ReadyLeavesTheDecoderSearching :
    ∃ t, exec (.feedRchk 0x06#8) (block 4#3 0x06#8 1#8 1#8 true 2#8) = .next t ∧ t.ready = true := ⟨_, rfl, by decide⟩

/-- The largest offset a frame can reach. -/
theorem witness_WritesStayBelowTheCapacity :
    ∃ t, exec (.feed 0xFE#8) lastByte = .next t ∧ ⟨254#8, 0xFE#8⟩ ∈ t.writes := ⟨_, rfl, by decide⟩

theorem witness_MemoryAndStreamFrame : lastByte.gaps = [] ∧
    ∃ t, exec (.feed 0xFE#8) lastByte = .next t ∧ (∀ w ∈ t.writes, w.off.toNat ≠ 0) := ⟨by decide, _, rfl, by decide⟩

/-- An empty payload, and one that the capacity cuts. -/
theorem witness_FramedStartReceivesThePayload :
    frameOf [] = some [0x06#8, 0x85#8, 0x00#8, 0x00#8] ∧ (∃ f, frameOf (List.replicate 255 0xAA#8) = some f) ∧
    (block 1#3 0#8 0#8 0#8 true 1#8).bound = true ∧ (block 1#3 0#8 0#8 0#8 true 1#8).st = Fsm.seekHeader2 ∧
    State.reset.st = Fsm.seekHeader1 ∧ 0 < (block 1#3 0#8 0#8 0#8 true 1#8).cap.toNat :=
  ⟨by decide, ⟨_, frameOf_of_le _ (by rw [List.length_replicate])⟩, by decide, by decide, by decide, by decide⟩

theorem witness_GarbageWithoutHeaderIsSkipped :
    frameOf [0x41#8, 0x42#8] = some [0x06#8, 0x85#8, 0x02#8, 0x41#8, 0x42#8, 0x01#8] ∧ 0x06#8 ∉ [0x00#8, 0x85#8, 0xFF#8] ∧
    (block 0#3 0#8 0#8 0#8 true 2#8).bound = true ∧ (block 0#3 0#8 0#8 0#8 true 2#8).st = Fsm.seekHeader1 := by decide

theorem witness_CapacityNeverAffectsReady : lastByte.bound = true ∧ (0#8 : Byte).toNat ≤ 0 := by decide

theorem witness_OneBitFlipIsDetected : (List.replicate 255 0xAA#8).length ≤ 255 ∧ 7 < 8 ∧
    254 < (List.replicate 255 0xAA#8).length ∧ (block 0#3 0#8 0#8 0#8 true 0#8).bound = true ∧
    (block 0#3 0#8 0#8 0#8 true 0#8).st = Fsm.seekHeader1 :=
  ⟨by rw [List.length_replicate], by decide, by rw [List.length_replicate]; decide, by decide, by decide⟩

theorem witness_PayloadSurvivesThreeBytes : (block 0#3 0x01#8 2#8 2#8 true 1#8).st = Fsm.seekHeader1 ∧
    (1#8 : Byte) ≠ 0#8 ∧ (block 0#3 0x01#8 2#8 2#8 true 1#8).bound = true ∧
    0#8 < (block 0#3 0x01#8 2#8 2#8 true 1#8).cap := by decide

end Sys2Proof.Tests
end

section
/-! PROOFS. The scope's rules: the checksum fold (00_scope.md R8), and one step as one presented command (R11). -/

namespace Sys2Proof.Machine

@[simp] theorem checksumFold_nil (l : Byte) : checksumFold l [] = l := rfl

@[simp] theorem checksumFold_cons (l b : Byte) (p : List Byte) :
    checksumFold l (b :: p) = checksumFold (l ^^^ b) p := rfl

/-- The two properties of exclusive-or that R8 names, as the fold uses them: two bytes fold in either order. -/
theorem foldByte_right_comm (l a b : Byte) : foldByte (foldByte l a) b = foldByte (foldByte l b) a :=
  calc l ^^^ a ^^^ b
    _ = l ^^^ (a ^^^ b) := BitVec.xor_assoc l a b
    _ = l ^^^ (b ^^^ a) := by rw [BitVec.xor_comm a b]
    _ = l ^^^ b ^^^ a := (BitVec.xor_assoc l b a).symm

theorem checksumFold_perm (l : Byte) {p q : List Byte} (h : p.Perm q) : checksumFold l p = checksumFold l q :=
  h.foldl_eq' (fun a _ b _ c => foldByte_right_comm c a b) l

/-- Settles O38: the loop equations, and a permutation is swaps of neighbours, which fold to one value. -/
theorem foldDoesNotDependOnOrder : Obligations.FoldDoesNotDependOnOrder :=
  ⟨checksumFold_nil, checksumFold_cons, fun l _ _ h => checksumFold_perm l h⟩

theorem State.present_of_turns_nil (s : State) (h : s.turns = []) : s.present = none := by
  simp only [State.present, h]

theorem State.present_of_turns_cons (s : State) (before : List HostEvent) (w : Word) (rest : List Turn)
    (h : s.turns = ⟨before, w⟩ :: rest) :
    s.present = some (w, applyEvents before { s with turns := rest }) := by
  simp only [State.present, h]

theorem step_of_present_none (s : State) (h : s.present = none) : step s = .fault .noCommand := by
  simp only [step, h]

theorem step_of_present_some (s t : State) (w : Word) (h : s.present = some (w, t)) :
    step s = exec (decode w) t := by
  simp only [step, h]

/-- Settles O4: the host presents the head turn's word, after that turn's events. -/
theorem stepRunsThePresentedInstruction : Obligations.StepRunsThePresentedInstruction := by
  intro s before w rest i hturns hdecode
  rw [step_of_present_some s _ w (s.present_of_turns_cons before w rest hturns), hdecode]

/-- Settles O5: with no turn left the host presents nothing. -/
theorem stepWaitsForACommand : Obligations.StepWaitsForACommand :=
  fun s hturns => step_of_present_none s (s.present_of_turns_nil hturns)

end Sys2Proof.Machine
end

section
/-! PROOFS. The state's invariant (10_state.md R21, R24, R34): it holds at reset, and the host's moves, the FEED steps, the
gaps of a DRAIN and so every step keep it. -/

namespace Sys2Proof.Machine

variable {s t : State}

/-- The invariant speaks of the FSM registers, the binding and the memories: a state with the same FSM registers meets it if
its binding and memories do. -/
theorem State.Inv.of_fsm_eq (h : s.Inv) (hst : t.st = s.st) (hacc : t.acc = s.acc) (hlen : t.len = s.len)
    (hcnt : t.cnt = s.cnt) (hunbound : t.bound = false → t.cap = 0#8) (hdst : Memory.wf t.dst = true)
    (hpay : Memory.wf t.pay = true) : t.Inv where
  legal := hst ▸ h.legal
  counted := by rw [hcnt, hlen]; exact h.counted
  body := by rw [hst, hcnt, hlen, hacc]; exact h.body
  checksum := by rw [hst, hcnt, hlen]; exact h.checksum
  unbound := hunbound
  dstWf := hdst
  payWf := hpay

/-! ## The host (R34, R184, R230) -/

/-- Reset sets the registers to values that meet the invariant, whatever they were. -/
theorem resetBlock_inv (hdst : Memory.wf s.dst = true) (hpay : Memory.wf s.pay = true) : s.resetBlock.Inv where
  legal := rfl
  counted := BitVec.le_refl _
  body := by simp
  checksum := by simp
  unbound := fun _ => rfl
  dstWf := hdst
  payWf := hpay

theorem applyEvent_inv (e : HostEvent) (h : s.Inv) : (applyEvent e s).Inv := by
  obtain ⟨bytes, n, d, p, heq | ⟨heq, -, -⟩, hd, hp⟩ := applyEvent_eq e s
  · rw [heq]
    exact h.of_fsm_eq rfl rfl rfl rfl h.unbound (hd h.dstWf) (hp h.payWf)
  · rw [heq]
    exact resetBlock_inv h.dstWf h.payWf

theorem applyEvents_inv (es : List HostEvent) (h : s.Inv) : (applyEvents es s).Inv := by
  induction es generalizing s with
  | nil => exact h
  | cons e es ih => exact ih (applyEvent_inv e h)

theorem takeGap_inv (h : s.Inv) : s.takeGap.Inv := by
  obtain ⟨bytes, n, d, p, heq, -, hd, hp⟩ := State.takeGap_eq s
  rw [heq]
  exact h.of_fsm_eq rfl rfl rfl rfl h.unbound (hd h.dstWf) (hp h.payWf)

/-! ## The FEED step (41_decoder.md R121 to R130) -/

/-- Leaving for a state that is neither `READ_BODY` nor `READ_CHECKSUM` asks nothing of `cnt` and `acc`. -/
theorem State.Inv.leaveFrame (h : s.Inv) (c : StCode) (r : Bool) (hlegal : Fsm.legal c = true)
    (hbody : c ≠ Fsm.readBody) (hchk : c ≠ Fsm.readChecksum) : ({ s with ready := r, st := c } : State).Inv where
  legal := hlegal
  counted := h.counted
  body := fun hc => absurd hc hbody
  checksum := fun hc => absurd hc hchk
  unbound := h.unbound
  dstWf := h.dstWf
  payWf := h.payWf

/-- Below the length one more byte is counted without overflow. -/
theorem byte_succ_le_of_le_of_ne {c l : Byte} (hle : c ≤ l) (hne : c ≠ l) : c + 1#8 ≤ l ∧ l ≠ 0#8 := by
  constructor <;> bv_omega

/-- A data byte is counted, and the last one of `len > 0` ends the body (R127). -/
theorem feedStep_data_inv (b : Byte) (h : s.Inv) (hst : s.st = Fsm.readBody) (hc : s.cnt ≠ s.len) :
    (feedStep b s).Inv := by
  obtain ⟨hle, hpos⟩ := byte_succ_le_of_le_of_ne h.counted hc
  have hlegal := feedStep_legal b s h.legal
  rw [feedStep_data b s hst hc] at hlegal ⊢
  refine ⟨hlegal, hle, fun hbody hlast => ?_, fun hchk => ⟨?_, hpos⟩, h.unbound, ?_, h.payWf⟩
  · exact absurd hbody (by simp [show s.cnt + 1#8 = s.len from hlast])
  · by_contra hlast
    simp [hlast] at hchk
  · dsimp only
    split
    · exact Memory.wf_write _ _ _ h.dstWf
    · exact h.dstWf

theorem feedStep_inv (b : Byte) (h : s.Inv) : (feedStep b s).Inv := by
  rcases feed_cases s with hst | hst | hst | ⟨hst, hc⟩ | ⟨hst, hc⟩ | hst | hst
  · rw [feedStep_seekHeader1 b s hst]
    split
    all_goals exact h.leaveFrame _ _ (by decide) (by decide) (by decide)
  · rw [feedStep_seekHeader2 b s hst]
    repeat' split
    all_goals exact h.leaveFrame _ _ (by decide) (by decide) (by decide)
  · rw [feedStep_readLen b s hst]
    exact ⟨rfl, Nat.zero_le b.toNat, fun _ hzero => ⟨hzero.symm, hzero.symm⟩, by simp, h.unbound, h.dstWf, h.payWf⟩
  · exact feedStep_data_inv b h hst hc
  · rw [feedStep_zchk b s hst hc]
    exact h.leaveFrame _ _ (by decide) (by decide) (by decide)
  · rw [feedStep_readChecksum b s hst]
    exact h.leaveFrame _ _ (by decide) (by decide) (by decide)
  · exact absurd h.legal (by simp [hst])

/-! ## Commands and steps -/

theorem startCommand_inv (h : s.Inv) : s.startCommand.Inv :=
  h.of_fsm_eq rfl rfl rfl rfl h.unbound h.dstWf h.payWf

theorem drainAll_inv (h : s.Inv) : (drainAll s).Inv :=
  drainLoop_induction State.Inv
    (fun _ b _ _ _ h => feedStep_inv b (h.of_fsm_eq rfl rfl rfl rfl h.unbound h.dstWf h.payWf))
    (fun _ => takeGap_inv)
    (fun _ hillegal h => absurd h.legal (by simp [hillegal]))
    _ s h

/-- BIND and UNBIND write the binding and leave the FSM registers (42_control.md R161, R162, R164). -/
theorem rebind_inv (h : s.Inv) (bound : Bool) (cap : Byte) (hunbound : bound = false → cap = 0#8) :
    ({ s.startCommand.markRebind with bound := bound, cap := cap } : State).Inv := by
  rw [State.markRebind_eq]
  exact h.of_fsm_eq rfl rfl rfl rfl hunbound h.dstWf h.payWf

theorem exec_inv (i : Instr) (h : s.Inv) (hexec : exec i s = .next t) : t.Inv := by
  have hstart := startCommand_inv h
  rcases exec_inversion s i t hexec with
    ⟨b, rfl, -⟩ | ⟨-, rfl⟩ | ⟨w, rfl⟩ | rfl | ⟨c, -, rfl⟩ | ⟨-, rfl⟩ | ⟨l, -, rfl⟩
  · exact feedStep_inv b hstart
  · exact drainAll_inv hstart
  · exact hstart.of_fsm_eq rfl rfl rfl rfl h.unbound h.dstWf h.payWf
  · exact hstart
  · exact rebind_inv h true c (fun hb => absurd hb (by decide))
  · exact rebind_inv h false 0#8 (fun _ => rfl)
  · exact hstart.of_fsm_eq rfl rfl rfl rfl h.unbound h.dstWf h.payWf

/-- Settles O3: the presented turn's events keep the invariant, and so does the instruction that follows them. -/
theorem everyStepKeepsInvariant : Obligations.EveryStepKeepsInvariant := by
  intro s t h hstep
  cases hturns : s.turns with
  | nil =>
    rw [step_of_present_none s (s.present_of_turns_nil hturns)] at hstep
    contradiction
  | cons turn rest =>
    rw [step_of_present_some s _ _ (s.present_of_turns_cons turn.before turn.word rest hturns)] at hstep
    have hpresented : ({ s with turns := rest } : State).Inv :=
      h.of_fsm_eq rfl rfl rfl rfl h.unbound h.dstWf h.payWf
    exact exec_inv _ (applyEvents_inv _ hpresented) hstep

/-- Settles O2: the state after reset is a block that was reset, with empty memories. -/
theorem resetMeetsInvariant : Obligations.ResetMeetsInvariant :=
  ⟨resetBlock_inv (s := State.reset) Memory.wf_nil Memory.wf_nil, rfl⟩

end Sys2Proof.Machine
end

section
/-! PROOFS. The binding (10_state.md R20, R25, R28): who writes it, and how it gates `ready` and the `DST` port. -/

namespace Sys2Proof.Machine

variable {s t : State}

theorem drainAll_binding (s : State) : (drainAll s).bound = s.bound ∧ (drainAll s).cap = s.cap := by
  refine drainLoop_induction (fun t => t.bound = s.bound ∧ t.cap = s.cap) (fun t b rest _ _ h => ?_) (fun t h => ?_)
    (fun _ _ h => h) _ s ⟨rfl, rfl⟩
  · simpa [microStep] using h
  · obtain ⟨bytes, n, d, p, heq, -⟩ := State.takeGap_eq t
    simpa [heq] using h

@[simp] theorem drainAll_bound (s : State) : (drainAll s).bound = s.bound := (drainAll_binding s).1
@[simp] theorem drainAll_cap (s : State) : (drainAll s).cap = s.cap := (drainAll_binding s).2

/-- Settles O51: of what a completing instruction can do, only the two rebindings write `bound` or `cap`. -/
theorem onlyBindAndUnbindChangeTheBinding : Obligations.OnlyBindAndUnbindChangeTheBinding := by
  intro i s t hexec hbind hunbind
  rcases exec_inversion s i t hexec with
    ⟨b, rfl, -⟩ | ⟨-, rfl⟩ | ⟨w, rfl⟩ | rfl | ⟨c, hi, -⟩ | ⟨hi, -⟩ | ⟨l, -, rfl⟩
  · simp
  · simp
  · simp
  · simp
  · exact absurd hi (hbind c)
  · exact absurd hi hunbind
  · simp

/-- The outputs obey the binding: no report while unbound (R25, R131), and no write while unbound or at an offset from the
capacity on (R28, R137). -/
structure State.OutputsGated (s : State) : Prop where
  ready : s.ready = true → s.bound = true
  writes : ∀ w ∈ s.writes, s.bound = true ∧ w.off < s.cap

/-- With no report and no write there is nothing to gate. -/
theorem State.OutputsGated.of_quiet (hready : s.ready = false) (hwrites : s.writes = []) : s.OutputsGated :=
  ⟨by simp [hready], by simp [hwrites]⟩

theorem State.OutputsGated.feedStep_gated (b : Byte) (h : s.OutputsGated) : (feedStep b s).OutputsGated where
  ready hr := by
    obtain ⟨-, -, hbound⟩ := (feedStep_ready_iff b s).1 hr
    rwa [feedStep_bound]
  writes w hw := by
    rw [feedStep_bound, feedStep_cap]
    rw [feedStep_writes, List.mem_append] at hw
    rcases hw with hold | hnew
    · exact h.writes w hold
    · exact State.portWrites_bound b s w hnew

theorem State.OutputsGated.drainAll_gated (h : s.OutputsGated) : (drainAll s).OutputsGated := by
  refine drainLoop_induction State.OutputsGated (fun t b rest _ _ h => ?_) (fun t h => ?_)
    (fun _ _ h => ⟨h.ready, h.writes⟩) _ s h
  · exact State.OutputsGated.feedStep_gated b (s := { t with src := rest }) ⟨h.ready, h.writes⟩
  · obtain ⟨bytes, n, d, p, heq, -⟩ := State.takeGap_eq t
    rw [heq]
    exact ⟨h.ready, h.writes⟩

/-- Every instruction's outputs obey the binding it found. -/
theorem exec_outputs_gated (i : Instr) (hexec : exec i s = .next t) :
    (t.ready = true → s.bound = true) ∧ ∀ w ∈ t.writes, s.bound = true ∧ w.off < s.cap := by
  have hstart : s.startCommand.OutputsGated := .of_quiet rfl rfl
  rcases exec_inversion s i t hexec with
    ⟨b, rfl, -⟩ | ⟨-, rfl⟩ | ⟨w, rfl⟩ | rfl | ⟨c, -, rfl⟩ | ⟨-, rfl⟩ | ⟨l, -, rfl⟩
  · simpa using And.intro (hstart.feedStep_gated b).ready (hstart.feedStep_gated b).writes
  · simpa using And.intro hstart.drainAll_gated.ready hstart.drainAll_gated.writes
  · simp
  · simp
  · simp [State.markRebind_eq]
  · simp [State.markRebind_eq]
  · simp

/-- Settles O53: a FEED step writes behind the gate only, and the other commands do not write. -/
theorem writesStayBelowTheCapacity : Obligations.WritesStayBelowTheCapacity :=
  fun i _ _ hexec => (exec_outputs_gated i hexec).2

/-- Settles O50: a report or a write would need the binding that is not there. -/
theorem unboundDecoderReportsAndWritesNothing : Obligations.UnboundDecoderReportsAndWritesNothing := by
  intro i s t hunbound hexec
  obtain ⟨hready, hwrites⟩ := exec_outputs_gated i hexec
  constructor
  · simpa [hunbound] using hready
  · exact List.eq_nil_iff_forall_not_mem.2 fun w hw => by simpa [hunbound] using hwrites w hw

end Sys2Proof.Machine
end

section
/-! PROOFS. The frame of an instruction in the memories, the streams and the schedule (10_state.md R28, 20_memory.md R50,
40_encoder.md R104). -/

namespace Sys2Proof.Machine

variable {s t : State}

/-- Writes at other offsets leave a byte alone. -/
theorem Memory.read_foldl_write_other (ws : List PortWrite) (m : Memory) (a : Nat)
    (h : ∀ w ∈ ws, w.off.toNat ≠ a) :
    Memory.read (ws.foldl (fun m w => Memory.write m w.off.toNat w.data) m) a = Memory.read m a := by
  induction ws generalizing m with
  | nil => rfl
  | cons w ws ih =>
    obtain ⟨hw, hws⟩ := List.forall_mem_cons.1 h
    rw [List.foldl_cons, ih _ hws, Memory.read_write_other _ _ _ _ hw.symm]

/-- What the decoder has left alone on the way from `s` to `t`, with no host move in between: `DST` changed only at the
offsets on the port, and `SRC` was only taken from its head. -/
structure State.DecoderFrame (s t : State) : Prop where
  dst : ∀ a, (∀ w ∈ t.writes, w.off.toNat ≠ a) → Memory.read t.dst a = Memory.read s.dst a
  pay : t.pay = s.pay
  turns : t.turns = s.turns
  gaps : t.gaps = []
  snk : t.snk = s.snk
  src : ∃ n, t.src = s.src.drop n

theorem State.DecoderFrame.start (hgaps : s.gaps = []) : s.DecoderFrame s.startCommand :=
  ⟨fun _ _ => rfl, rfl, rfl, hgaps, rfl, 0, rfl⟩

theorem State.DecoderFrame.feedStep_frame (b : Byte) (h : s.DecoderFrame t) : s.DecoderFrame (feedStep b t) where
  dst a ha := by
    rw [feedStep_writes, List.forall_mem_append] at ha
    obtain ⟨hold, hnew⟩ := ha
    rw [feedStep_dst, Memory.read_foldl_write_other _ _ a hnew, h.dst a hold]
  pay := (feedStep_pay b t).trans h.pay
  turns := (feedStep_turns b t).trans h.turns
  gaps := (feedStep_gaps b t).trans h.gaps
  snk := (feedStep_snk b t).trans h.snk
  src := by rw [feedStep_src]; exact h.src

theorem State.DecoderFrame.pop {b : Byte} {rest : List Byte} (h : s.DecoderFrame t) (hsrc : t.src = b :: rest) :
    s.DecoderFrame { t with src := rest } := by
  obtain ⟨n, hn⟩ := h.src
  refine ⟨h.dst, h.pay, h.turns, h.gaps, h.snk, n + 1, ?_⟩
  rw [← List.drop_drop, ← hn, hsrc]
  rfl

theorem State.DecoderFrame.drainAll_frame (h : s.DecoderFrame t) : s.DecoderFrame (drainAll t) :=
  drainLoop_induction s.DecoderFrame
    (fun _ b _ hsrc _ h => (h.pop hsrc).feedStep_frame b)
    (fun u h => by rwa [u.takeGap_of_nil h.gaps])
    (fun _ _ h => ⟨h.dst, h.pay, h.turns, h.gaps, h.snk, h.src⟩)
    _ t h

/-- Settles O54: FEED and DRAIN by the decoder's frame, ENCODE by its append; the other commands reach none of these
fields. -/
theorem memoryAndStreamFrame : Obligations.MemoryAndStreamFrame := by
  intro i s t hgaps hexec
  have hstart := State.DecoderFrame.start hgaps
  rcases exec_inversion s i t hexec with
    ⟨b, rfl, -⟩ | ⟨hi, rfl⟩ | ⟨w, rfl⟩ | rfl | ⟨c, -, rfl⟩ | ⟨-, rfl⟩ | ⟨l, hi, rfl⟩
  · obtain ⟨hdst, hpay, hturns, hgaps', hsnk, hsrc⟩ := hstart.feedStep_frame b
    exact ⟨hdst, hpay, hturns, hgaps', fun _ => hsnk, fun _ => by simp, hsrc⟩
  · obtain ⟨hdst, hpay, hturns, hgaps', hsnk, hsrc⟩ := hstart.drainAll_frame
    exact ⟨hdst, hpay, hturns, hgaps', fun _ => hsnk, fun hne => absurd hi hne, hsrc⟩
  · exact ⟨fun _ _ => rfl, rfl, rfl, hgaps, fun _ => rfl, fun _ => rfl, 0, rfl⟩
  · exact ⟨fun _ _ => rfl, rfl, rfl, hgaps, fun _ => rfl, fun _ => rfl, 0, rfl⟩
  · rw [State.markRebind_eq]
    exact ⟨fun _ _ => rfl, rfl, rfl, hgaps, fun _ => rfl, fun _ => rfl, 0, rfl⟩
  · rw [State.markRebind_eq]
    exact ⟨fun _ _ => rfl, rfl, rfl, hgaps, fun _ => rfl, fun _ => rfl, 0, rfl⟩
  · exact ⟨fun _ _ => rfl, rfl, rfl, hgaps, fun hne => absurd hi (hne l), fun _ => rfl, 0, rfl⟩

end Sys2Proof.Machine
end

section
/-! PROOFS. Simulations between runs of one instruction: a relation between states that the shared operations keep is kept
by every instruction. -/

namespace Sys2Proof.Machine

variable {s s' t : State}

/-- A relation under which two states run alike: they agree in what the control flow, the FEED case and ENCODE read, and
every operation that instructions are made of keeps the relation. -/
structure Simulation (R : State → State → Prop) : Prop where
  st {s s' : State} : R s s' → s.st = s'.st
  cnt {s s' : State} : R s s' → s.cnt = s'.cnt
  len {s s' : State} : R s s' → s.len = s'.len
  ready {s s' : State} : R s s' → s.ready = s'.ready
  pay {s s' : State} : R s s' → s.pay = s'.pay
  src {s s' : State} : R s s' → s.src = s'.src
  gaps {s s' : State} : R s s' → s.gaps = s'.gaps
  start {s s' : State} : R s s' → R s.startCommand s'.startCommand
  feed {s s' : State} (b : Byte) : R s s' → R (feedStep b s) (feedStep b s')
  pop {s s' : State} (rest : List Byte) : R s s' → R { s with src := rest } { s' with src := rest }
  gap {s s' : State} : R s s' → R s.takeGap s'.takeGap
  illegal {s s' : State} : R s s' → R (bodyIllegal s) (bodyIllegal s')
  refuse {s s' : State} (w : Word) : R s s' → R (s.refuse w) (s'.refuse w)
  rebind {s s' : State} (bound : Bool) (cap : Byte) : R s s' →
    R { s.markRebind with bound := bound, cap := cap } { s'.markRebind with bound := bound, cap := cap }
  append {s s' : State} (bytes : List Byte) : R s s' → R (s.appendSnk bytes) (s'.appendSnk bytes)

namespace Simulation

variable {R : State → State → Prop}

theorem feedCase_eq (sim : Simulation R) (b : Byte) (hR : R s s') : s.feedCase b = s'.feedCase b := by
  simp only [State.feedCase, sim.st hR, sim.cnt hR, sim.len hR]

theorem payload_eq (sim : Simulation R) (l : Byte) (hR : R s s') : s.payload l = s'.payload l := by
  unfold State.payload State.payByte
  rw [sim.pay hR]

theorem available_eq (sim : Simulation R) (hR : R s s') : s.available = s'.available := by
  simp only [State.available, sim.src hR, sim.gaps hR]

/-- The DRAIN loops take the same turns. -/
theorem drainAll_related (sim : Simulation R) (hR : R s s') : R (drainAll s) (drainAll s') := by
  unfold drainAll
  rw [sim.available_eq hR]
  exact drainLoop_simulation R (fun _ _ h => ⟨sim.src h, sim.st h, sim.ready h⟩)
    (fun _ _ b rest h => sim.feed b (sim.pop rest h)) (fun _ _ => sim.gap) (fun _ _ => sim.illegal) _ s s' hR

/-- R83 selects the same case, and where it is selected the case's body is the FEED step. -/
theorem runCase_related (sim : Simulation R) (c : FeedCase) (b : Byte) (body : State → State)
    (hbody : ∀ u : State, u.feedCase b = c → feedStep b u.startCommand = body u.startCommand) (hR : R s s')
    (h : runCase c b body s = .next t) : ∃ t', runCase c b body s' = .next t' ∧ R t t' := by
  obtain ⟨rfl, hc⟩ := runCase_next s c b body t (fun hc => (hbody s hc).symm) h
  have hc' : s'.feedCase b = c := (sim.feedCase_eq b hR).symm.trans hc
  exact ⟨feedStep b s'.startCommand, by rw [runCase_pos s' c b body hc', hbody s' hc'], sim.feed b (sim.start hR)⟩

theorem runIllegal_related (sim : Simulation R) (code : StCode) (b : Byte) (hR : R s s')
    (h : runIllegal code b s = .next t) : ∃ t', runIllegal code b s' = .next t' ∧ R t t' := by
  unfold runIllegal at h ⊢
  rw [← sim.st hR]
  split at h
  · rw [if_pos ‹_›]
    exact sim.runCase_related _ b _ (fun u => feedStep_of_case u b _) hR h
  · contradiction

theorem refuseWord_related (sim : Simulation R) (w : Word) (hR : R s s') (h : refuseWord w s = .next t) :
    ∃ t', refuseWord w s' = .next t' ∧ R t t' := by
  cases h
  exact ⟨_, rfl, sim.refuse w (sim.start hR)⟩

/-- An instruction that completes in one of two related states completes in the other, and the next states are related. -/
theorem exec_related (sim : Simulation R) (i : Instr) (hR : R s s') (h : exec i s = .next t) :
    ∃ t', exec i s' = .next t' ∧ R t t' := by
  have hstart := sim.start hR
  cases i
  case readme => contradiction
  case nop => cases h; exact ⟨_, rfl, hstart⟩
  case feed b => cases h; exact ⟨_, rfl, sim.feed b hstart⟩
  case drain => cases h; exact ⟨_, rfl, sim.drainAll_related hstart⟩
  case bind c => cases h; exact ⟨_, rfl, sim.rebind true c hstart⟩
  case unbind => cases h; exact ⟨_, rfl, sim.rebind false 0#8 hstart⟩
  case encode l =>
    cases h
    refine ⟨_, rfl, ?_⟩
    rw [← sim.payload_eq l hR]
    exact sim.append _ hstart
  case feedIllegal5 b => exact sim.runIllegal_related _ b hR h
  case feedIllegal6 b => exact sim.runIllegal_related _ b hR h
  case feedIllegal7 b => exact sim.runIllegal_related _ b hR h
  case feedSh1Hit => exact sim.runCase_related _ _ _ (fun u => feedStep_of_case u _ _) hR h
  case feedSh1Miss b => exact sim.runCase_related _ b _ (fun u => feedStep_of_case u b _) hR h
  case feedSh2Hit => exact sim.runCase_related _ _ _ (fun u => feedStep_of_case u _ _) hR h
  case feedSh2Rehit => exact sim.runCase_related _ _ _ (fun u => feedStep_of_case u _ _) hR h
  case feedSh2Miss b => exact sim.runCase_related _ b _ (fun u => feedStep_of_case u b _) hR h
  case feedRlen b => exact sim.runCase_related _ b _ (fun u => feedStep_of_case u b _) hR h
  case feedRbodyData b => exact sim.runCase_related _ b _ (fun u => feedStep_of_case u b _) hR h
  case feedRbodyZchk b => exact sim.runCase_related _ b _ (fun u => feedStep_of_case u b _) hR h
  case feedRchk b => exact sim.runCase_related _ b _ (fun u => feedStep_of_case u b _) hR h
  all_goals exact sim.refuseWord_related _ hR h

end Simulation

end Sys2Proof.Machine
end

section
/-! PROOFS. The memories (20_memory.md R51, R53, R54): what the host's moves reach, and that the block never reads `DST`. -/

namespace Sys2Proof.Machine

variable {s s' : State}

/-- Settles O6: one move reaches these four fields only, and so do the moves of a gap. -/
theorem hostMovesLeaveTheBlockAlone : Obligations.HostMovesLeaveTheBlockAlone := by
  intro ms s
  obtain ⟨bytes, n, d, p, h, -⟩ := applyMoves_eq ms s
  exact ⟨bytes, n, d, p, h⟩

/-- Two states that differ in `DST` at most. -/
def State.EqUpToDst (s s' : State) : Prop := ∃ d, s' = { s with dst := d }

/-- A FEED step writes `DST` and reads none of it (R51, R128). -/
theorem State.EqUpToDst.feedStep_eqUpToDst (b : Byte) (h : s.EqUpToDst s') :
    (feedStep b s).EqUpToDst (feedStep b s') := by
  obtain ⟨d, rfl⟩ := h
  rcases feed_cases s with h | h | h | ⟨h, hc⟩ | ⟨h, hc⟩ | h | h
  · rw [feedStep_seekHeader1 b s h, feedStep_seekHeader1 b { s with dst := d } h]; exact ⟨d, rfl⟩
  · rw [feedStep_seekHeader2 b s h, feedStep_seekHeader2 b { s with dst := d } h]; exact ⟨d, rfl⟩
  · rw [feedStep_readLen b s h, feedStep_readLen b { s with dst := d } h]; exact ⟨d, rfl⟩
  · rw [feedStep_data b s h hc, feedStep_data b { s with dst := d } h hc]; exact ⟨_, rfl⟩
  · rw [feedStep_zchk b s h hc, feedStep_zchk b { s with dst := d } h hc]; exact ⟨d, rfl⟩
  · rw [feedStep_readChecksum b s h, feedStep_readChecksum b { s with dst := d } h]; exact ⟨d, rfl⟩
  · rw [feedStep_illegal b s h, feedStep_illegal b { s with dst := d } h]; exact ⟨d, rfl⟩

theorem State.EqUpToDst.applyMove_eqUpToDst (m : HostMove) (h : s.EqUpToDst s') :
    (applyMove m s).EqUpToDst (applyMove m s') := by
  obtain ⟨d, rfl⟩ := h
  cases m with
  | appendSrc bytes => exact ⟨d, rfl⟩
  | takeSnk n => exact ⟨d, rfl⟩
  | writePay off data => exact ⟨d, rfl⟩
  | writeDst off data => exact ⟨Memory.write d off.toNat data, rfl⟩

theorem State.EqUpToDst.applyMoves_eqUpToDst (ms : List HostMove) (h : s.EqUpToDst s') :
    (applyMoves ms s).EqUpToDst (applyMoves ms s') := by
  induction ms generalizing s s' with
  | nil => exact h
  | cons m ms ih => exact ih (h.applyMove_eqUpToDst m)

/-- An exhausted schedule is a gap with no moves. -/
theorem State.takeGap_eq_applyMoves (s : State) :
    s.takeGap = applyMoves (s.gaps.headD []) { s with gaps := s.gaps.tail } := by
  cases hgaps : s.gaps with
  | nil => rw [s.takeGap_of_nil hgaps, List.headD_nil, applyMoves_nil, List.tail_nil, ← hgaps]
  | cons ms rest => simp only [State.takeGap, hgaps, List.headD_cons, List.tail_cons]

theorem State.EqUpToDst.takeGap_eqUpToDst (h : s.EqUpToDst s') : s.takeGap.EqUpToDst s'.takeGap := by
  obtain ⟨d, rfl⟩ := h
  rw [State.takeGap_eq_applyMoves, State.takeGap_eq_applyMoves]
  exact State.EqUpToDst.applyMoves_eqUpToDst _ ⟨d, rfl⟩

theorem State.EqUpToDst.rebind_eqUpToDst (bound : Bool) (cap : Byte) (h : s.EqUpToDst s') :
    State.EqUpToDst { s.markRebind with bound := bound, cap := cap }
      { s'.markRebind with bound := bound, cap := cap } := by
  obtain ⟨d, rfl⟩ := h
  rw [State.markRebind_eq, State.markRebind_eq]
  exact ⟨d, rfl⟩

/-- Nothing that an instruction is made of reads `DST` (R51). -/
theorem State.EqUpToDst.simulation : Simulation State.EqUpToDst where
  st := by rintro s _ ⟨d, rfl⟩; rfl
  cnt := by rintro s _ ⟨d, rfl⟩; rfl
  len := by rintro s _ ⟨d, rfl⟩; rfl
  ready := by rintro s _ ⟨d, rfl⟩; rfl
  pay := by rintro s _ ⟨d, rfl⟩; rfl
  src := by rintro s _ ⟨d, rfl⟩; rfl
  gaps := by rintro s _ ⟨d, rfl⟩; rfl
  start := by rintro s _ ⟨d, rfl⟩; exact ⟨d, rfl⟩
  feed := State.EqUpToDst.feedStep_eqUpToDst
  pop := by rintro s _ rest ⟨d, rfl⟩; exact ⟨d, rfl⟩
  gap := State.EqUpToDst.takeGap_eqUpToDst
  illegal := by rintro s _ ⟨d, rfl⟩; exact ⟨d, rfl⟩
  refuse := by rintro s _ w ⟨d, rfl⟩; exact ⟨d, rfl⟩
  rebind := State.EqUpToDst.rebind_eqUpToDst
  append := by rintro s _ bytes ⟨d, rfl⟩; exact ⟨d, rfl⟩

/-- Settles O47: the instruction runs in step with itself on the other contents of `DST`. -/
theorem dstIsNeverRead : Obligations.DstIsNeverRead := by
  intro i s t d hexec
  obtain ⟨_, hexec', d', rfl⟩ := State.EqUpToDst.simulation.exec_related i ⟨d, rfl⟩ hexec
  exact ⟨d', hexec'⟩

end Sys2Proof.Machine
end

section
/-! PROOFS. The command words (30_encoding.md R79 to R82): what the encoder writes for each instruction decodes to it, and every
word is written so. -/

namespace Sys2Proof

/-! ## The fields of a word (R79) -/

/-- The codes of R80 are those of the six commands. -/
theorem isCommandCode_iff : ∀ c : BitVec 3, isCommandCode c = true ↔ c ≠ 6#3 ∧ c ≠ 7#3 := by decide

theorem isCommandCode_cases : ∀ c : BitVec 3, isCommandCode c = true →
    c = 0#3 ∨ c = 1#3 ∨ c = 2#3 ∨ c = 3#3 ∨ c = 4#3 ∨ c = 5#3 := by decide

/-- A `rsv` field is zero, or one of its five bits is the lowest set one (R81). -/
theorem rsv_lowest_bit : ∀ r : BitVec 5, r = 0#5 ∨ (∃ h : BitVec 4, r = h ++ 1#1) ∨ (∃ h : BitVec 3, r = h ++ 2#2) ∨
    (∃ h : BitVec 2, r = h ++ 4#3) ∨ (∃ h : BitVec 1, r = h ++ 8#4) ∨ r = 16#5 := by
  decide

/-! ## The branches of the decoder -/

@[simp] theorem decode_word110 (low : BitVec 13) : decode (word110 low) = .reserved110 low := by simp [decode]

@[simp] theorem decode_word111 (low : BitVec 13) : decode (word111 low) = .reserved111 low := by simp [decode]

theorem decode_commandWord (c : BitVec 3) (o : Byte) (hc : isCommandCode c = true) :
    decode (commandWord c o) = decodeCommand c o := by
  obtain ⟨h6, h7⟩ := (isCommandCode_iff c).1 hc
  simp [decode, h6, h7]

/-- The row of a word with `rsv != 0` and a command's code, from its fields. -/
theorem decode_fields_of_rsv (c : BitVec 3) (r : BitVec 5) (o : Byte) (hc : isCommandCode c = true) (hr : r ≠ 0#5) :
    decode (c ++ r ++ o) =
      if r.extractLsb' 0 1 = 1#1 then .reservedRsv0 c (r.extractLsb' 1 4) o
      else if r.extractLsb' 1 1 = 1#1 then .reservedRsv1 c (r.extractLsb' 2 3) o
      else if r.extractLsb' 2 1 = 1#1 then .reservedRsv2 c (r.extractLsb' 3 2) o
      else if r.extractLsb' 3 1 = 1#1 then .reservedRsv3 c (r.extractLsb' 4 1) o
      else .reservedRsv4 c o := by
  obtain ⟨h6, h7⟩ := (isCommandCode_iff c).1 hc
  have hbits (i n : Nat) (h : i + n ≤ 5) : (c ++ r ++ o).extractLsb' (8 + i) n = r.extractLsb' i n := by
    rw [extract_rsv _ i n h, rsvOf_fields]
  simp only [decode, decodeRsv, cmdOf_fields, rsvOf_fields, opdOf_fields, h6, h7, hr, if_false, ne_eq, not_false_eq_true,
    if_true, ← hbits 0 1 (by decide), ← hbits 1 4 (by decide), ← hbits 1 1 (by decide), ← hbits 2 3 (by decide),
    ← hbits 2 1 (by decide), ← hbits 3 2 (by decide), ← hbits 3 1 (by decide), ← hbits 4 1 (by decide)]

theorem decode_wordRsv0 (c : BitVec 3) (h : BitVec 4) (o : Byte) (hc : isCommandCode c = true) :
    decode (wordRsv0 c h o) = .reservedRsv0 c h o := by
  have hr : ∀ h : BitVec 4, (h ++ 1#1 : BitVec 5) ≠ 0#5 ∧ (h ++ 1#1 : BitVec 5).extractLsb' 0 1 = 1#1 ∧
      (h ++ 1#1 : BitVec 5).extractLsb' 1 4 = h := by decide
  obtain ⟨hne, h0, hhi⟩ := hr h
  rw [wordRsv0_fields, decode_fields_of_rsv _ _ _ hc hne, if_pos h0, hhi]

theorem decode_wordRsv1 (c : BitVec 3) (h : BitVec 3) (o : Byte) (hc : isCommandCode c = true) :
    decode (wordRsv1 c h o) = .reservedRsv1 c h o := by
  have hr : ∀ h : BitVec 3, (h ++ 2#2 : BitVec 5) ≠ 0#5 ∧ (h ++ 2#2 : BitVec 5).extractLsb' 0 1 ≠ 1#1 ∧
      (h ++ 2#2 : BitVec 5).extractLsb' 1 1 = 1#1 ∧ (h ++ 2#2 : BitVec 5).extractLsb' 2 3 = h := by decide
  obtain ⟨hne, h0, h1, hhi⟩ := hr h
  rw [wordRsv1_fields, decode_fields_of_rsv _ _ _ hc hne, if_neg h0, if_pos h1, hhi]

theorem decode_wordRsv2 (c : BitVec 3) (h : BitVec 2) (o : Byte) (hc : isCommandCode c = true) :
    decode (wordRsv2 c h o) = .reservedRsv2 c h o := by
  have hr : ∀ h : BitVec 2, (h ++ 4#3 : BitVec 5) ≠ 0#5 ∧ (h ++ 4#3 : BitVec 5).extractLsb' 0 1 ≠ 1#1 ∧
      (h ++ 4#3 : BitVec 5).extractLsb' 1 1 ≠ 1#1 ∧ (h ++ 4#3 : BitVec 5).extractLsb' 2 1 = 1#1 ∧
      (h ++ 4#3 : BitVec 5).extractLsb' 3 2 = h := by decide
  obtain ⟨hne, h0, h1, h2, hhi⟩ := hr h
  rw [wordRsv2_fields, decode_fields_of_rsv _ _ _ hc hne, if_neg h0, if_neg h1, if_pos h2, hhi]

theorem decode_wordRsv3 (c : BitVec 3) (h : BitVec 1) (o : Byte) (hc : isCommandCode c = true) :
    decode (wordRsv3 c h o) = .reservedRsv3 c h o := by
  have hr : ∀ h : BitVec 1, (h ++ 8#4 : BitVec 5) ≠ 0#5 ∧ (h ++ 8#4 : BitVec 5).extractLsb' 0 1 ≠ 1#1 ∧
      (h ++ 8#4 : BitVec 5).extractLsb' 1 1 ≠ 1#1 ∧ (h ++ 8#4 : BitVec 5).extractLsb' 2 1 ≠ 1#1 ∧
      (h ++ 8#4 : BitVec 5).extractLsb' 3 1 = 1#1 ∧ (h ++ 8#4 : BitVec 5).extractLsb' 4 1 = h := by decide
  obtain ⟨hne, h0, h1, h2, h3, hhi⟩ := hr h
  rw [wordRsv3_fields, decode_fields_of_rsv _ _ _ hc hne, if_neg h0, if_neg h1, if_neg h2, if_pos h3, hhi]

theorem decode_wordRsv4 (c : BitVec 3) (o : Byte) (hc : isCommandCode c = true) :
    decode (wordRsv4 c o) = .reservedRsv4 c o :=
  (decode_fields_of_rsv c 16#5 o hc (by decide)).trans rfl

/-! ## Encoding and decoding -/

theorem decodeCode_key (st : StCode) (b : Byte) (f : Bool) : decodeCode (.key (keyOf st b) f) =
    some ((FeedCase.select Config.header1 Config.header2 st b f).instr st b) :=
  congrArg some (decodeKey_keyOf st b f)

/-- Settles O9: each word by the branch of its code, each key by the case its state code selects. -/
theorem decodeInvertsEncode : Obligations.DecodeInvertsEncode := by
  intro i hwf
  cases i
  case readme => contradiction
  case nop => rfl
  case feed b => exact congrArg some (decode_commandWord 1#3 b rfl)
  case drain => rfl
  case bind c => exact congrArg some (decode_commandWord 3#3 c rfl)
  case unbind => rfl
  case encode l => exact congrArg some (decode_commandWord 5#3 l rfl)
  case reserved110 low => exact congrArg some (decode_word110 low)
  case reserved111 low => exact congrArg some (decode_word111 low)
  case reservedRsv0 c h o => exact congrArg some (decode_wordRsv0 c h o hwf)
  case reservedRsv1 c h o => exact congrArg some (decode_wordRsv1 c h o hwf)
  case reservedRsv2 c h o => exact congrArg some (decode_wordRsv2 c h o hwf)
  case reservedRsv3 c h o => exact congrArg some (decode_wordRsv3 c h o hwf)
  case reservedRsv4 c o => exact congrArg some (decode_wordRsv4 c o hwf)
  case reservedNopOpd o =>
    have ho : o ≠ 0#8 := bne_iff_ne.1 hwf
    simp [encode, decodeCode, decode_commandWord 0#3 o rfl, decodeCommand, ho]
  case reservedDrainOpd o =>
    have ho : o ≠ 0#8 := bne_iff_ne.1 hwf
    simp [encode, decodeCode, decode_commandWord 2#3 o rfl, decodeCommand, ho]
  case reservedUnbindOpd o =>
    have ho : o ≠ 0#8 := bne_iff_ne.1 hwf
    simp [encode, decodeCode, decode_commandWord 4#3 o rfl, decodeCommand, ho]
  case feedSh1Miss b =>
    have hb : b ≠ Config.header1 := by simpa [Instr.wf] using hwf
    rw [encode, decodeCode_key, select_seekHeader1, if_neg hb]
    rfl
  case feedSh2Miss b =>
    obtain ⟨h1, h2⟩ : b ≠ Config.header1 ∧ b ≠ Config.header2 := by simpa [Instr.wf] using hwf
    rw [encode, decodeCode_key, select_seekHeader2, if_neg h2, if_neg h1]
    rfl
  case feedSh1Hit => rfl
  case feedSh2Hit => rfl
  case feedSh2Rehit => rfl
  all_goals exact decodeCode_key _ _ _

theorem decode_of_encode {i : Instr} {w : Word} (hwf : i.wf = true) (h : encode i = .command w) : decode w = i := by
  have := decodeInvertsEncode i hwf
  rw [h] at this
  exact Option.some.inj this

/-- A word with `rsv = 0` and a command's code is written for that command, or for the row of its operand. -/
theorem exists_encode_commandWord (c : BitVec 3) (o : Byte) (hc : isCommandCode c = true) :
    ∃ i : Instr, i.wf = true ∧ encode i = .command (commandWord c o) := by
  by_cases ho : o = 0#8
  · subst ho
    rcases isCommandCode_cases c hc with rfl | rfl | rfl | rfl | rfl | rfl
    exacts [⟨.nop, rfl, rfl⟩, ⟨.feed _, rfl, rfl⟩, ⟨.drain, rfl, rfl⟩, ⟨.bind _, rfl, rfl⟩, ⟨.unbind, rfl, rfl⟩,
      ⟨.encode _, rfl, rfl⟩]
  · have hopd : (o != 0#8) = true := bne_iff_ne.2 ho
    rcases isCommandCode_cases c hc with rfl | rfl | rfl | rfl | rfl | rfl
    exacts [⟨.reservedNopOpd o, hopd, rfl⟩, ⟨.feed o, rfl, rfl⟩, ⟨.reservedDrainOpd o, hopd, rfl⟩, ⟨.bind o, rfl, rfl⟩,
      ⟨.reservedUnbindOpd o, hopd, rfl⟩, ⟨.encode o, rfl, rfl⟩]

/-- Every word is written for a well-formed instruction: by its code, and then by the lowest bit of `rsv`. -/
theorem exists_encode (w : Word) : ∃ i : Instr, i.wf = true ∧ encode i = .command w := by
  by_cases h6 : cmdOf w = 6#3
  · exact ⟨.reserved110 _, rfl, congrArg Code.command (word110_of_word w h6)⟩
  by_cases h7 : cmdOf w = 7#3
  · exact ⟨.reserved111 _, rfl, congrArg Code.command (word111_of_word w h7)⟩
  have hc : isCommandCode (cmdOf w) = true := (isCommandCode_iff _).2 ⟨h6, h7⟩
  rw [← fields_of_word w]
  rcases rsv_lowest_bit (rsvOf w) with hr | ⟨h, hr⟩ | ⟨h, hr⟩ | ⟨h, hr⟩ | ⟨h, hr⟩ | hr <;> rw [hr]
  · exact exists_encode_commandWord _ _ hc
  · exact ⟨.reservedRsv0 _ h _, hc, congrArg Code.command (wordRsv0_fields _ h _)⟩
  · exact ⟨.reservedRsv1 _ h _, hc, congrArg Code.command (wordRsv1_fields _ h _)⟩
  · exact ⟨.reservedRsv2 _ h _, hc, congrArg Code.command (wordRsv2_fields _ h _)⟩
  · exact ⟨.reservedRsv3 _ h _, hc, congrArg Code.command (wordRsv3_fields _ h _)⟩
  · exact ⟨.reservedRsv4 _ _, hc, rfl⟩

/-- Settles O10: the instruction a word is written for is the one it decodes to. -/
theorem everyWordIsItsInstructionsEncoding : Obligations.EveryWordIsItsInstructionsEncoding := by
  intro w
  obtain ⟨i, hwf, hi⟩ := exists_encode w
  rw [decode_of_encode hwf hi]
  exact ⟨hwf, hi⟩

end Sys2Proof
end

section
/-! PROOFS. The decoders against their tables (30_encoding.md R80, R81, R83): the first row that matches a word or a key. -/

namespace Sys2Proof

/-- A search by rows, one row at a time. -/
theorem map_find?_cons {α β : Type} (p : α → Bool) (f : α → β) (a : α) (l : List α) :
    ((a :: l).find? p).map f = if p a = true then some (f a) else (l.find? p).map f := by
  cases h : p a <;> simp [h]

/-! ## The CMD16 table -/

theorem cmdOf_ofNat (n : Nat) : cmdOf (BitVec.ofNat 16 n) = BitVec.ofNat 3 (n / 8192) := by
  apply BitVec.eq_of_toNat_eq
  simp [cmdOf, Nat.shiftRight_eq_div_pow]
  omega

theorem rsvOf_ofNat (n : Nat) : rsvOf (BitVec.ofNat 16 n) = BitVec.ofNat 5 (n / 256) := by
  apply BitVec.eq_of_toNat_eq
  simp [rsvOf, Nat.shiftRight_eq_div_pow]
  omega

theorem opdOf_ofNat (n : Nat) : opdOf (BitVec.ofNat 16 n) = BitVec.ofNat 8 n := by
  apply BitVec.eq_of_toNat_eq
  simp [opdOf]

/-- The mnemonic of the first CMD16 row that matches a word, by the fields that the rows' masks and patterns compare. -/
theorem firstCommandRow_mnemonic (w : Word) : (firstCommandRow w).map (·.mnemonic) =
    if cmdOf w = 0#3 ∧ rsvOf w = 0#5 ∧ opdOf w = 0#8 then some "NOP"
    else if cmdOf w = 1#3 ∧ rsvOf w = 0#5 then some "FEED"
    else if cmdOf w = 2#3 ∧ rsvOf w = 0#5 ∧ opdOf w = 0#8 then some "DRAIN"
    else if cmdOf w = 3#3 ∧ rsvOf w = 0#5 then some "BIND"
    else if cmdOf w = 4#3 ∧ rsvOf w = 0#5 ∧ opdOf w = 0#8 then some "UNBIND"
    else if cmdOf w = 5#3 ∧ rsvOf w = 0#5 then some "ENCODE"
    else if cmdOf w = 6#3 then some "RESERVED.110"
    else if cmdOf w = 7#3 then some "RESERVED.111"
    else if rsvOf w &&& 1#5 = 1#5 then some "RESERVED.RSV0"
    else if rsvOf w &&& 2#5 = 2#5 then some "RESERVED.RSV1"
    else if rsvOf w &&& 4#5 = 4#5 then some "RESERVED.RSV2"
    else if rsvOf w &&& 8#5 = 8#5 then some "RESERVED.RSV3"
    else if rsvOf w &&& 16#5 = 16#5 then some "RESERVED.RSV4"
    else if cmdOf w = 0#3 ∧ rsvOf w = 0#5 then some "RESERVED.NOP_OPD"
    else if cmdOf w = 2#3 ∧ rsvOf w = 0#5 then some "RESERVED.DRAIN_OPD"
    else if cmdOf w = 4#3 ∧ rsvOf w = 0#5 then some "RESERVED.UNBIND_OPD"
    else none := by
  have hcmd (c : BitVec 3) : c &&& 7#3 = c := BitVec.and_allOnes
  have hrsv (r : BitVec 5) : r &&& 31#5 = r := BitVec.and_allOnes
  have hopd (o : Byte) : o &&& 255#8 = o := BitVec.and_allOnes
  simp only [firstCommandRow, commandRows, map_find?_cons]
  simp [word_matches_iff, cmdOf_ofNat, rsvOf_ofNat, opdOf_ofNat, hcmd, hrsv, hopd]

/-- The masks of the RSV rows test the bits that the decoder tests. -/
theorem rsv_mask_iff_bit : ∀ r : BitVec 5,
    (r &&& 1#5 = 1#5 ↔ r.extractLsb' 0 1 = 1#1) ∧ (r &&& 2#5 = 2#5 ↔ r.extractLsb' 1 1 = 1#1) ∧
    (r &&& 4#5 = 4#5 ↔ r.extractLsb' 2 1 = 1#1) ∧ (r &&& 8#5 = 8#5 ↔ r.extractLsb' 3 1 = 1#1) ∧
    (r &&& 16#5 = 16#5 ↔ r.extractLsb' 4 1 = 1#1) := by
  decide

/-- A `rsv` field that is not zero has a bit set. -/
theorem rsv_top_bit : ∀ r : BitVec 5, r ≠ 0#5 → r.extractLsb' 0 1 ≠ 1#1 → r.extractLsb' 1 1 ≠ 1#1 →
    r.extractLsb' 2 1 ≠ 1#1 → r.extractLsb' 3 1 ≠ 1#1 → r.extractLsb' 4 1 = 1#1 := by
  decide

/-- Settles O11: the decoder's branches, and in each the rows that the fields exclude. -/
theorem decodeFollowsTheCommandTable : Obligations.DecodeFollowsTheCommandTable := by
  intro w
  rw [firstCommandRow_mnemonic]
  by_cases h6 : cmdOf w = 6#3
  · simp [decode, h6, Instr.mnemonic]
  by_cases h7 : cmdOf w = 7#3
  · simp [decode, h7, Instr.mnemonic]
  have hc : isCommandCode (cmdOf w) = true := (isCommandCode_iff _).2 ⟨h6, h7⟩
  by_cases hr : rsvOf w = 0#5
  · have hdecode := decode_commandWord (cmdOf w) (opdOf w) hc
    rw [commandWord_of_word w hr] at hdecode
    rw [hdecode, hr]
    rcases isCommandCode_cases _ hc with h | h | h | h | h | h
    all_goals by_cases ho : opdOf w = 0#8 <;> simp [h, ho, decodeCommand, Instr.mnemonic]
  · have hdecode := decode_fields_of_rsv (cmdOf w) (rsvOf w) (opdOf w) hc hr
    rw [fields_of_word] at hdecode
    obtain ⟨h0, h1, h2, h3, h4⟩ := rsv_mask_iff_bit (rsvOf w)
    have htop := rsv_top_bit (rsvOf w) hr
    simp only [hr, h6, h7, h0, h1, h2, h3, h4, and_false, false_and, if_false, hdecode]
    split_ifs with b0 b1 b2 b3 b4
    · rfl
    · rfl
    · rfl
    · rfl
    · rfl
    · exact absurd (htop b0 b1 b2 b3) b4

/-! ## The dispatch table -/

/-- A key is its two fields (R83). -/
theorem keyOf_eq_iff (st : StCode) (b : Byte) (k : Key) :
    keyOf st b = k ↔ st = k.extractLsb' 8 3 ∧ b = k.extractLsb' 0 8 := by
  constructor
  · rintro rfl
    simp
  · rintro ⟨rfl, rfl⟩
    exact keyOf_fields k

theorem stCode_cases : ∀ st : StCode, st = Fsm.seekHeader1 ∨ st = Fsm.seekHeader2 ∨ st = Fsm.readLen ∨
    st = Fsm.readBody ∨ st = Fsm.readChecksum ∨ st = 5#3 ∨ st = 6#3 ∨ st = 7#3 := by
  decide

/-- The rows that match a key in each state: those whose pattern has the state's code and, in the rows of the header bytes,
the byte. -/
theorem firstFeedRow_case (h1 h2 : Byte) (st : StCode) (b : Byte) (atLen : Bool) :
    (firstFeedRow h1 h2 (keyOf st b) atLen).map (·.case) = some (FeedCase.select h1 h2 st b atLen) := by
  simp only [firstFeedRow, feedRows, map_find?_cons, key_and_all, keyOf_and_st, beq_iff_eq, Bool.and_eq_true, keyOf_eq_iff]
  rcases stCode_cases st with rfl | rfl | rfl | rfl | rfl | hst
  · simp [apply_ite some]
  · simp [apply_ite some]
  · simp
  · cases atLen <;> simp
  · simp
  · rw [select_illegal h1 h2 st b atLen (by rcases hst with rfl | rfl | rfl <;> rfl)]
    rcases hst with rfl | rfl | rfl <;> simp

/-- Settles O13: the first row by the key's fields, at any header values and so at the normative ones. -/
theorem feedCaseIsTheFirstMatchingRow : Obligations.FeedCaseIsTheFirstMatchingRow :=
  ⟨firstFeedRow_case, fun h atLen => by simp [select_seekHeader2 h h h atLen],
    fun b s => firstFeedRow_case Config.header1 Config.header2 s.st b (s.cnt == s.len)⟩

end Sys2Proof
end

section
/-! PROOFS. What the words and the dispatch cases do when they are executed (30_encoding.md R81, R83). -/

namespace Sys2Proof.Machine

/-! ## Refused words (R81, R166) -/

/-- An instruction that is written as a word and is no command refuses that word. -/
theorem exec_eq_refuseWord {i : Instr} {w : Word} (hi : isCommand i = false) (h : encode i = .command w) (s : State) :
    exec i s = refuseWord w s := by
  cases i
  case nop | feed | drain | bind | unbind | encode => contradiction
  case reserved110 | reserved111 | reservedRsv0 | reservedRsv1 | reservedRsv2 | reservedRsv3 | reservedRsv4
    | reservedNopOpd | reservedDrainOpd | reservedUnbindOpd => cases h; rfl
  all_goals contradiction

theorem refusesWord_of_exec {i : Instr} {w : Word} (h : ∀ s, exec i s = refuseWord w s) : RefusesWord i w := by
  intro s
  refine ⟨fun hs => ?_, fun r hs => ⟨r, ?_⟩⟩
  all_goals rw [h]; simp [refuseWord, State.refuse, State.startCommand, hs]

/-- The three kinds of refused word (R81). -/
def IsRefusedWord (w : Word) : Prop :=
  cmdOf w = 6#3 ∨ cmdOf w = 7#3 ∨ rsvOf w ≠ 0#5 ∨ ((cmdOf w = 0#3 ∨ cmdOf w = 2#3 ∨ cmdOf w = 4#3) ∧ opdOf w ≠ 0#8)

/-- A command's word is of none of the three kinds. -/
theorem not_isRefusedWord_of_isCommand {i : Instr} {w : Word} (hi : isCommand i = true) (h : encode i = .command w) :
    ¬ IsRefusedWord w := by
  cases i
  case nop | feed | drain | bind | unbind | encode => cases h; simp [IsRefusedWord]
  all_goals contradiction

/-- Settles O12: a refused word is written for an instruction that is no command; any other word is the command word of its
code and its operand. -/
theorem wordsAreCommandsOrRefused : Obligations.WordsAreCommandsOrRefused := by
  intro w
  obtain ⟨hwf, hencode⟩ := everyWordIsItsInstructionsEncoding w
  refine ⟨fun hrefused => ?_, fun hlegal => ?_⟩
  · have hi : isCommand (decode w) = false :=
      Bool.eq_false_iff.2 fun hi => not_isRefusedWord_of_isCommand hi hencode hrefused
    exact ⟨hi, refusesWord_of_exec (exec_eq_refuseWord hi hencode)⟩
  · obtain ⟨h6, h7, hrsv, hopd⟩ : cmdOf w ≠ 6#3 ∧ cmdOf w ≠ 7#3 ∧ rsvOf w = 0#5 ∧
        (cmdOf w = 0#3 ∨ cmdOf w = 2#3 ∨ cmdOf w = 4#3 → opdOf w = 0#8) := by
      simpa only [not_or, not_and, not_not, ne_eq] using hlegal
    have hdecode : decode w = decodeCommand (cmdOf w) (opdOf w) := by simp [decode, h6, h7, hrsv]
    rw [hdecode]
    refine ⟨fun hc => ?_, fun hc => ?_, fun hc => ?_, fun hc => ?_, fun hc => ?_, fun hc => ?_⟩
    · rw [hc, hopd (.inl hc)]; rfl
    · rw [hc]; rfl
    · rw [hc, hopd (.inr (.inl hc))]; rfl
    · rw [hc]; rfl
    · rw [hc, hopd (.inr (.inr hc))]; rfl
    · rw [hc]; rfl

theorem exec_completes_of_isCommand {i : Instr} (hi : isCommand i = true) (s : State) : ∃ t, exec i s = .next t := by
  cases i
  case nop | feed | drain | bind | unbind | encode => exact ⟨_, rfl⟩
  all_goals contradiction

/-- Settles O7: a command completes, and so does the refusal of any other word. -/
theorem everyWordCompletes : Obligations.EveryWordCompletes := by
  intro w s
  cases hi : isCommand (decode w) with
  | true => exact exec_completes_of_isCommand hi s
  | false =>
    rw [exec_eq_refuseWord hi (everyWordIsItsInstructionsEncoding w).2]
    exact ⟨_, rfl⟩

/-- Settles O8: each bit pattern is closed, and the decoders evaluate on it. -/
theorem writtenOutWordsDecode : Obligations.WrittenOutWordsDecode := by
  unfold Obligations.WrittenOutWordsDecode
  decide

/-! ## The table's note and the unselected cases -/

theorem feedCase_instr_ne_readme (c : FeedCase) (st : StCode) (b : Byte) : c.instr st b ≠ .readme := by
  cases c
  case illegal =>
    unfold FeedCase.instr
    split_ifs <;> simp
  all_goals simp [FeedCase.instr]

/-- Settles O14: a decoded word is well-formed, and a decoded key is a FEED case; the note is neither. -/
theorem tableNoteIsNoInstruction : Obligations.TableNoteIsNoInstruction := by
  refine ⟨fun _ => rfl, fun w h => ?_, fun k atLen => feedCase_instr_ne_readme _ _ _⟩
  obtain ⟨hwf, -⟩ := everyWordIsItsInstructionsEncoding w
  rw [h] at hwf
  contradiction

theorem runIllegal_neg (s : State) (code : StCode) (b : Byte) (h : s.st ≠ code) :
    runIllegal code b s = .refused (.caseNotSelected .illegal) := if_neg h

/-- Settles O16: each arm runs its body where its case is selected, and refuses elsewhere. -/
theorem unselectedCasesStop : Obligations.UnselectedCasesStop := fun b s =>
  ⟨runCase_neg s .sh1Hit Config.header1 _, runCase_neg s .sh1Miss b _, runCase_neg s .sh2Hit Config.header2 _,
    runCase_neg s .sh2Rehit Config.header1 _, runCase_neg s .sh2Miss b _, runCase_neg s .rlen b _,
    runCase_neg s .rbodyData b _, runCase_neg s .rbodyZchk b _, runCase_neg s .rchk b _,
    runIllegal_neg s 5#3 b, runIllegal_neg s 6#3 b, runIllegal_neg s 7#3 b⟩

end Sys2Proof.Machine
end

section
/-! PROOFS. Well-formed frames (30_encoding.md R75): each is put together from a payload. -/

namespace Sys2Proof.Machine

theorem isFrame_cons (h1 h2 l : Byte) (rest : List Byte) : isFrame (h1 :: h2 :: l :: rest) = true ↔
    h1 = Config.header1 ∧ h2 = Config.header2 ∧ rest.length = l.toNat + 1 ∧
      rest.getLast? = some (checksumFold l rest.dropLast) := by
  simp [isFrame, and_assoc]

/-- A well-formed frame is put together from its length field and a payload of that length. -/
theorem isFrame_iff (f : List Byte) :
    isFrame f = true ↔ ∃ (l : Byte) (p : List Byte), p.length = l.toNat ∧ f = frameBytes l p := by
  constructor
  · intro h
    match f, h with
    | h1 :: h2 :: l :: rest, h =>
      obtain ⟨rfl, rfl, hlen, hlast⟩ := (isFrame_cons h1 h2 l rest).1 h
      refine ⟨l, rest.dropLast, by simp [hlen], ?_⟩
      rw [frameBytes, List.append_assoc, List.dropLast_append_getLast? _ hlast]
      rfl
  · rintro ⟨l, p, hp, rfl⟩
    exact (isFrame_cons _ _ _ _).2 (by simp [hp])

theorem frameOf_of_length_eq {l : Byte} {p : List Byte} (h : p.length = l.toNat) : frameOf p = some (frameBytes l p) := by
  rw [frameOf_of_le p (h ▸ Nat.le_of_lt_succ l.isLt), h, BitVec.ofNat_toNat, BitVec.setWidth_eq]

/-- Settles O37: the payload lies between the length field and the checksum. -/
theorem wellFormedFramesAreEncodings : Obligations.WellFormedFramesAreEncodings := by
  intro f hf
  obtain ⟨l, p, hp, rfl⟩ := (isFrame_iff f).1 hf
  exact ⟨p, hp ▸ Nat.le_of_lt_succ l.isLt, frameOf_of_length_eq hp⟩

end Sys2Proof.Machine
end

section
/-! PROOFS. The frame encoder (40_encoder.md R100 to R105): ENCODE's word and effect, and the frames of R101. -/

namespace Sys2Proof

/-- A command word as its fields in place: the code in bits 15 to 13, the operand in bits 7 to 0 (R79). -/
theorem commandWord_eq_or (c : BitVec 3) (o : Byte) : commandWord c o = c.setWidth 16 <<< 13 ||| o.setWidth 16 := by
  unfold commandWord; grind

end Sys2Proof

namespace Sys2Proof.Machine

/-- Where the host has written `PAY`, ENCODE reads what it wrote. -/
theorem payload_getElem_of_read {l : Byte} {s : State} {i : Nat} {v : Byte} (hi : i < (s.payload l).length)
    (h : Memory.read s.pay i = some v) : (s.payload l)[i] = v := by
  simp [State.payload, State.payByte, h]

/-- Settles O35: the command joins the frame of the payload it reads to `SNK`. -/
theorem encodeAppendsTheFrameOfThePayload : Obligations.EncodeAppendsTheFrameOfThePayload :=
  ⟨fun l => congrArg Code.command (commandWord_eq_or 5#3 l), fun l s =>
    ⟨s.payload l, length_payload l s, fun _ hi _ hv => payload_getElem_of_read hi hv, exec_encode s l⟩⟩

/-! ## What a frame holds (30_encoding.md R70, R73) -/

@[simp] theorem length_frameBytes (l : Byte) (p : List Byte) : (frameBytes l p).length = p.length + 4 := by
  simp [frameBytes]

@[simp] theorem take_frameBytes (l : Byte) (p : List Byte) : (frameBytes l p).take 2 = [0x06#8, 0x85#8] := rfl

@[simp] theorem frameBytes_getElem?_two (l : Byte) (p : List Byte) : (frameBytes l p)[2]? = some l := rfl

@[simp] theorem drop_frameBytes (l : Byte) (p : List Byte) : (frameBytes l p).drop 3 = p ++ [checksumFold l p] := rfl

@[simp] theorem getLast?_frameBytes (l : Byte) (p : List Byte) :
    (frameBytes l p).getLast? = some (checksumFold l p) := List.getLast?_concat

/-- The payload stands in its frame verbatim, from offset 3 on. -/
theorem take_drop_frameBytes (l : Byte) (p : List Byte) : ((frameBytes l p).drop 3).take p.length = p :=
  List.take_left

/-- A frame determines its payload: the bytes between the length field and the checksum. -/
theorem frameBytes_payload_inj {l m : Byte} {p q : List Byte} (h : frameBytes l p = frameBytes m q) : p = q := by
  have hdrop : p ++ [checksumFold l p] = q ++ [checksumFold m q] := congrArg (List.drop 3) h
  exact (List.append_inj' hdrop rfl).1

theorem isFrame_frameBytes {p : List Byte} (h : p.length ≤ 255) :
    isFrame (frameBytes (BitVec.ofNat 8 p.length) p) = true := by
  have hlen : p.length = (BitVec.ofNat 8 p.length).toNat := (Nat.mod_eq_of_lt (Nat.lt_succ_of_le h)).symm
  exact (isFrame_iff _).2 ⟨_, p, hlen, rfl⟩

/-- Settles O36: the frame's parts are read off its bytes, and equal frames hold one payload. -/
theorem framesAreWellFormedAndInjective : Obligations.FramesAreWellFormedAndInjective := by
  refine ⟨fun p hp => ?_, frameOf_of_gt, fun p q hp hq h => ?_⟩
  · exact ⟨_, frameOf_of_le p hp, isFrame_frameBytes hp, length_frameBytes _ p, take_frameBytes _ p,
      frameBytes_getElem?_two _ p, take_drop_frameBytes _ p, getLast?_frameBytes _ p⟩
  · rw [frameOf_of_le p hp, frameOf_of_le q hq] at h
    exact frameBytes_payload_inj (Option.some.inj h)

end Sys2Proof.Machine
end

section
/-! PROOFS. FEED, case by case (41_decoder.md R120 to R132): the keys of each case, the state it leaves, and that the case
itself leaves it too. -/

namespace Sys2Proof

/-! ## The dispatch keys of each case (30_encoding.md R83) -/

/-- A key that matches a row under the mask 0x700 is the row's state code and the key's own byte. -/
theorem key_eq_keyOf {st : StCode} {k : Key} (h : k &&& 0x700#11 = keyOf st 0#8) : k = keyOf st (k.setWidth 8) := by
  have hbyte : k.setWidth 8 = k.extractLsb' 0 8 := BitVec.setWidth_eq_extractLsb' (by decide)
  rw [← keyOf_fields k, keyOf_and_st, keyOf_eq_iff, keyOf_st] at h
  rw [hbyte, ← h.1, keyOf_fields]

/-- Such a key decodes to the case that the row's state code and the key's byte select. -/
theorem decodeKey_of_mask {st : StCode} {k : Key} (h : k &&& 0x700#11 = keyOf st 0#8) (atLen : Bool) :
    decodeKey k atLen =
      (FeedCase.select Config.header1 Config.header2 st (k.setWidth 8) atLen).instr st (k.setWidth 8) := by
  rw [← decodeKey_keyOf, ← key_eq_keyOf h]

/-- A key that the mask 0x700 matches and the mask 0x7FF does not has another byte than the row with the full mask. -/
theorem setWidth_ne_of_key_ne {st : StCode} {k : Key} {b : Byte} (h : k &&& 0x700#11 = keyOf st 0#8)
    (hne : k &&& 0x7FF#11 ≠ keyOf st b) : k.setWidth 8 ≠ b := by
  rw [key_and_all] at hne
  exact fun hb => hne (hb ▸ key_eq_keyOf h)

end Sys2Proof

namespace Sys2Proof.Machine

variable {b : Byte} {s : State}

/-! ## FEED and its selected case (R120) -/

/-- Where `SEEK_HEADER_1` or `SEEK_HEADER_2` sees a header byte, the byte is that header. -/
theorem eq_header_of_feedCase :
    (s.feedCase b = .sh1Hit → b = Config.header1) ∧ (s.feedCase b = .sh2Hit → b = Config.header2) ∧
    (s.feedCase b = .sh2Rehit → b = Config.header1) := by
  simp only [State.feedCase, FeedCase.select]
  split_ifs <;> simp_all

/-- A case where R83 selects it leaves what FEED leaves, if its body is the one FEED runs. -/
theorem runCase_selected {c : FeedCase} {body : State → State} (hc : s.feedCase b = c)
    (hbody : feedStep b s.startCommand = body s.startCommand) :
    runCase c b body s = .next (feedStep b s.startCommand) := by
  rw [runCase_pos s c b body hc, hbody]

/-- The selected case, executed as an instruction, leaves the state of the FEED step. -/
theorem exec_selected_case (b : Byte) (s : State) :
    exec ((s.feedCase b).instr s.st b) s = .next (feedStep b s.startCommand) := by
  obtain ⟨hsh1, hsh2, hrehit⟩ := eq_header_of_feedCase (b := b) (s := s)
  cases hc : s.feedCase b
  case sh1Hit =>
    obtain rfl := hsh1 hc
    exact runCase_selected hc (feedStep_of_case s _ _ hc)
  case sh2Hit =>
    obtain rfl := hsh2 hc
    exact runCase_selected hc (feedStep_of_case s _ _ hc)
  case sh2Rehit =>
    obtain rfl := hrehit hc
    exact runCase_selected hc (feedStep_of_case s _ _ hc)
  case illegal =>
    have hrun : ∀ code, s.st = code → runIllegal code b s = .next (feedStep b s.startCommand) := fun code hst =>
      (if_pos hst).trans (runCase_selected hc (feedStep_of_case s _ _ hc))
    have hlegal : Fsm.legal s.st = false := (select_eq_illegal _ _ _ _ _).1 hc
    have hcode : ∀ c : StCode, Fsm.legal c = false → c = 5#3 ∨ c = 6#3 ∨ c = 7#3 := by decide
    rcases hcode s.st hlegal with h | h | h
    · rw [h]; exact hrun 5#3 h
    · rw [h]; exact hrun 6#3 h
    · rw [h]; exact hrun 7#3 h
  all_goals exact runCase_selected hc (feedStep_of_case s b _ hc)

/-- What a FEED leaves, its selected case leaves. -/
theorem exec_feed_and_case {i : Instr} {t : State} (ht : feedStep b s.startCommand = t)
    (hi : (s.feedCase b).instr s.st b = i) : exec (.feed b) s = .next t ∧ exec i s = .next t := by
  subst ht hi
  exact ⟨rfl, exec_selected_case b s⟩

/-- Settles O15: the word by its fields, the effect by the selected case, and the mark by the legality of the state code. -/
theorem feedRunsItsSelectedCase : Obligations.FeedRunsItsSelectedCase := by
  refine ⟨fun b => congrArg Code.command (commandWord_eq_or 1#3 b), fun b s =>
    ⟨feedStep b s.startCommand, rfl, ?_, feedStep_src b _, feedStep_refusedMark b _, feedStep_faultMark b s.startCommand,
      fun hl => ?_⟩⟩
  · rw [decodeKey_keyOf]
    exact exec_selected_case b s
  · rw [feedStep_illegal b s.startCommand hl]
    rfl

/-! ## The header search (R121 to R125) -/

theorem feedCase_seekHeader1 (h : s.st = Fsm.seekHeader1) :
    s.feedCase b = if b = Config.header1 then .sh1Hit else .sh1Miss := by
  rw [State.feedCase, h, select_seekHeader1]

theorem feedCase_seekHeader2 (h : s.st = Fsm.seekHeader2) :
    s.feedCase b = if b = Config.header2 then .sh2Hit else if b = Config.header1 then .sh2Rehit else .sh2Miss := by
  rw [State.feedCase, h, select_seekHeader2]

theorem feedCase_readLen (h : s.st = Fsm.readLen) : s.feedCase b = .rlen := by
  rw [State.feedCase, h, select_readLen]

theorem feedCase_readBody (h : s.st = Fsm.readBody) :
    s.feedCase b = if s.cnt = s.len then .rbodyZchk else .rbodyData := by
  rw [State.feedCase, h, select_readBody]
  simp

theorem feedCase_readChecksum (h : s.st = Fsm.readChecksum) : s.feedCase b = .rchk := by
  rw [State.feedCase, h, select_readChecksum]

/-- Settles O17: the full-mask key is one key, and `HEADER_1` is the hit. -/
theorem seekHeader1HitGoesToSeekHeader2 : Obligations.SeekHeader1HitGoesToSeekHeader2 := by
  refine ⟨fun k atLen hk => ?_, fun s hst => exec_feed_and_case ?_ ?_⟩
  · rw [key_and_all] at hk
    rw [hk]
    rfl
  · exact feedStep_seekHeader1 Config.header1 s.startCommand hst
  · rw [feedCase_seekHeader1 hst]
    rfl

/-- Settles O18: a key or a byte other than `HEADER_1` falls through the hit's row. -/
theorem seekHeader1MissStays : Obligations.SeekHeader1MissStays := by
  refine ⟨fun k atLen hk hne => ?_, fun b s hst hb => ?_⟩
  · have hb : k.setWidth 8 ≠ Config.header1 := setWidth_ne_of_key_ne (st := Fsm.seekHeader1) hk hne
    rw [decodeKey_of_mask (st := Fsm.seekHeader1) hk, select_seekHeader1, if_neg hb]
    rfl
  · have hb : b ≠ Config.header1 := hb
    refine exec_feed_and_case ?_ ?_
    · rw [feedStep_seekHeader1 b s.startCommand hst, if_neg hb]
      rfl
    · rw [feedCase_seekHeader1 hst, if_neg hb]
      rfl

/-- Settles O19: the full-mask key is one key, and `HEADER_2` is the hit. -/
theorem seekHeader2HitGoesToReadLen : Obligations.SeekHeader2HitGoesToReadLen := by
  refine ⟨fun k atLen hk => ?_, fun s hst => exec_feed_and_case ?_ ?_⟩
  · rw [key_and_all] at hk
    rw [hk]
    rfl
  · exact feedStep_seekHeader2 Config.header2 s.startCommand hst
  · rw [feedCase_seekHeader2 hst]
    rfl

/-- A `HEADER_1` byte is a header candidate in both search states (R121, R124). -/
theorem feedStep_header1 (hst : s.st = Fsm.seekHeader1 ∨ s.st = Fsm.seekHeader2) :
    feedStep Config.header1 s.startCommand = { s with st := Fsm.seekHeader2, ready := false, writes := [] } := by
  rcases hst with hst | hst
  · exact feedStep_seekHeader1 Config.header1 s.startCommand hst
  · exact feedStep_seekHeader2 Config.header1 s.startCommand hst

theorem feedStep_header2 (hst : s.st = Fsm.seekHeader2) :
    feedStep Config.header2 s.startCommand = { s with st := Fsm.readLen, ready := false, writes := [] } :=
  feedStep_seekHeader2 Config.header2 s.startCommand hst

/-- Any run of `HEADER_1` bytes and then `HEADER_2` reaches `READ_LEN` (R124). -/
theorem runFeeds_header1_run (n : Nat) (hst : s.st = Fsm.seekHeader2) :
    runFeeds (List.replicate n Config.header1 ++ [Config.header2]) s =
      some (List.replicate (n + 1) false, { s with st := Fsm.readLen, ready := false, writes := [] }) := by
  induction n generalizing s with
  | zero => rw [List.replicate_zero, List.nil_append, runFeeds_cons, feedStep_header2 hst]; rfl
  | succ n ih =>
    rw [List.replicate_succ, List.cons_append, runFeeds_cons, feedStep_header1 (.inr hst), ih rfl]
    rfl

/-- Settles O20: each `HEADER_1` byte of the run stays, and `HEADER_2` leaves. -/
theorem seekHeader2RehitStays : Obligations.SeekHeader2RehitStays := by
  refine ⟨fun k atLen hk => ?_, fun s hst => exec_feed_and_case (feedStep_header1 (.inr hst)) ?_,
    fun n s hst => runFeeds_header1_run n hst⟩
  · rw [key_and_all] at hk
    rw [hk]
    rfl
  · rw [feedCase_seekHeader2 hst]
    rfl

/-- Settles O21: a key or a byte that is neither header falls through both header rows. -/
theorem seekHeader2MissGoesBack : Obligations.SeekHeader2MissGoesBack := by
  refine ⟨fun k atLen hk hne2 hne1 => ?_, fun b s hst hb2 hb1 => ?_⟩
  · have hb2 : k.setWidth 8 ≠ Config.header2 := setWidth_ne_of_key_ne (st := Fsm.seekHeader2) hk hne2
    have hb1 : k.setWidth 8 ≠ Config.header1 := setWidth_ne_of_key_ne (st := Fsm.seekHeader2) hk hne1
    rw [decodeKey_of_mask (st := Fsm.seekHeader2) hk, select_seekHeader2, if_neg hb2, if_neg hb1]
    rfl
  · have hb2 : b ≠ Config.header2 := hb2
    have hb1 : b ≠ Config.header1 := hb1
    refine exec_feed_and_case ?_ ?_
    · rw [feedStep_seekHeader2 b s.startCommand hst, if_neg hb2, if_neg hb1]
      rfl
    · rw [feedCase_seekHeader2 hst, if_neg hb2, if_neg hb1]
      rfl

/-! ## The length, the body and the checksum (R126 to R130) -/

/-- Settles O22: `READ_LEN` has one row and one case. -/
theorem readLenStartsTheBody : Obligations.ReadLenStartsTheBody := by
  refine ⟨fun k atLen hk => decodeKey_of_mask (st := Fsm.readLen) hk atLen, fun b s hst => exec_feed_and_case ?_ ?_⟩
  · exact feedStep_readLen b s.startCommand hst
  · rw [feedCase_readLen hst]
    rfl

/-- The write gate as the rule states it (R128). -/
theorem State.dstGate_iff : s.dstGate = true ↔ s.bound = true ∧ s.cnt < s.cap := by
  simp [State.dstGate]

/-- Settles O23: the one write, behind its gate, and where `DST` differs after it. -/
theorem dataByteIsFoldedCountedAndWritten : Obligations.DataByteIsFoldedCountedAndWritten := by
  refine ⟨fun k hk => decodeKey_of_mask (st := Fsm.readBody) hk false, fun b s hst hc => ?_⟩
  obtain ⟨hfeed, hcase⟩ := exec_feed_and_case (i := .feedRbodyData b) (feedStep_data b s.startCommand hst hc)
    (by rw [feedCase_readBody hst, if_neg hc]; rfl)
  refine ⟨_, _, hfeed, hcase, fun hgate => ?_, fun hgate => ?_, fun a ha => ?_⟩
  · have hgate : s.startCommand.dstGate = true := State.dstGate_iff.2 hgate
    simp [hgate]
  · have hgate : ¬ s.startCommand.dstGate = true := mt State.dstGate_iff.1 hgate
    simp [hgate]
  · split
    · exact Memory.read_write_other _ _ _ _ ha
    · rfl

/-- Settles O24: a FEED adds one write behind the gate, to none. -/
theorem feedWritesExactlyGatedDataBytes : Obligations.FeedWritesExactlyGatedDataBytes := by
  intro b s
  refine ⟨_, rfl, (feedStep_writes b s.startCommand).trans ?_⟩
  simp only [← State.dstGate_iff]
  rfl

/-- `ready` at a checksum byte, as one decision (R129, R130). -/
theorem State.frameReady_eq_decide (b : Byte) (s : State) :
    s.frameReady b = decide (b = s.acc ∧ s.bound = true) := by
  simp [State.frameReady, Bool.beq_eq_decide_eq]

/-- Settles O25: the effect by the case; the last clause is the invariant's. -/
theorem zeroLengthChecksumByte : Obligations.ZeroLengthChecksumByte := by
  refine ⟨fun k hk => decodeKey_of_mask (st := Fsm.readBody) hk true, fun b s hst hc => exec_feed_and_case ?_ ?_,
    fun s hinv hst hc => (hinv.body hst hc).symm⟩
  · rw [feedStep_zchk b s.startCommand hst hc, State.frameReady_eq_decide]
    rfl
  · rw [feedCase_readBody hst, if_pos hc]
    rfl

/-- Settles O26: `READ_CHECKSUM` has one row and one case. -/
theorem checksumByteEndsTheAttempt : Obligations.ChecksumByteEndsTheAttempt := by
  refine ⟨fun k atLen hk => decodeKey_of_mask (st := Fsm.readChecksum) hk atLen,
    fun b s hst => exec_feed_and_case ?_ ?_⟩
  · rw [feedStep_readChecksum b s.startCommand hst, State.frameReady_eq_decide]
    rfl
  · rw [feedCase_readChecksum hst]
    rfl

/-! ## The illegal codes and `ready` (R131, R132) -/

/-- A FEED in a code that names no state, and the case of that code (R132). -/
theorem exec_illegal_case (hl : Fsm.legal s.st = false) {i : Instr} (hi : FeedCase.illegal.instr s.st b = i) :
    let t := { s with faultMark := s.faultMark.or (some (.illegalState s.st)), ready := false, writes := [] }
    exec (.feed b) s = .next t ∧ exec i s = .next t := by
  refine exec_feed_and_case (feedStep_illegal b s.startCommand hl) ?_
  rw [State.feedCase, select_illegal _ _ _ _ _ hl, hi]

/-- Settles O27: each of the three codes is illegal and names its row. -/
theorem illegalStateSetsTheFaultMark : Obligations.IllegalStateSetsTheFaultMark := by
  intro b s
  refine ⟨fun h => ?_, fun h => ?_, fun h => ?_⟩
  all_goals exact exec_illegal_case (by rw [h]; rfl) (by rw [h]; rfl)

/-- Settles O28: a FEED step reports only in the two checksum cases. -/
theorem readyNeedsAMatchAndABinding : Obligations.ReadyNeedsAMatchAndABinding :=
  fun b s => ⟨_, rfl, feedStep_ready_iff b s.startCommand⟩

end Sys2Proof.Machine
end

section
/-! PROOFS. DRAIN as FEEDs (41_decoder.md R133 to R135): one FEED of the oldest byte and then the rest of the DRAIN, and
sequences of FEEDs with what they write on the port. -/

namespace Sys2Proof.Machine

variable {s t u : State} {b : Byte} {bs cs : List Byte} {rs qs : List Bool} {ws vs : List PortWrite}

/-! ## The end of a DRAIN (R133, R134, R135) -/

/-- Settles O29: with no byte to pop, the loop ends before its first micro-step. -/
theorem drainOfAnEmptySourceIsANoOp : Obligations.DrainOfAnEmptySourceIsANoOp :=
  fun s h => congrArg Host.Outcome.next (drainAll_nil s.startCommand h)

theorem takeGap_st (s : State) : s.takeGap.st = s.st := by
  obtain ⟨bytes, n, d, p, h, -⟩ := s.takeGap_eq
  rw [h]

theorem microStep_takeGap_legal (b : Byte) (rest : List Byte) (hl : Fsm.legal s.st = true) :
    Fsm.legal (microStep b rest s).takeGap.st = true := by
  rw [takeGap_st]
  exact feedStep_legal b { s with src := rest } hl

/-- From a legal code a DRAIN ends with a frame completed or `SRC` empty: each micro-step takes one available byte. -/
theorem drainAll_done (s : State) (hl : Fsm.legal s.st = true) :
    (drainAll s).ready = true ∨ (drainAll s).src = [] := by
  induction hn : s.available generalizing s with
  | zero =>
    have hsrc : s.src = [] := List.length_eq_zero_iff.1 (Nat.eq_zero_of_add_eq_zero_right hn)
    exact .inr (by rw [drainAll_nil s hsrc, hsrc])
  | succ n ih =>
    cases hsrc : s.src with
    | nil => exact .inr (by rw [drainAll_nil s hsrc, hsrc])
    | cons b rest =>
      rw [drainAll_cons s b rest hsrc hl]
      split
      · exact .inl ‹_›
      · have havail := available_microStep s b rest hsrc
        exact ih _ (microStep_takeGap_legal b rest hl) (by omega)

/-- Settles O31: the bytes available run out. -/
theorem drainEndsWhenDone : Obligations.DrainEndsWhenDone :=
  fun s hl => ⟨_, exec_drain s, drainAll_done s.startCommand hl⟩

/-! ## The writes of a DRAIN (R28) -/

/-- The second state has the writes `ws` before those of the first, and is otherwise the first. -/
def State.WritesAfter (ws : List PortWrite) (s s' : State) : Prop := s' = { s with writes := ws ++ s.writes }

theorem State.WritesAfter.microStep_writesAfter {s s' : State} (b : Byte) (rest : List Byte) (h : s.WritesAfter ws s') :
    (microStep b rest s).WritesAfter ws (microStep b rest s') := by
  subst h
  refine (feedStep_withWrites b { s with src := rest } (ws ++ s.writes)).trans ?_
  rw [microStep, feedStep_writes, List.append_assoc]

theorem applyMoves_withWrites (ms : List HostMove) (s : State) (vs : List PortWrite) :
    applyMoves ms { s with writes := vs } = { applyMoves ms s with writes := vs } := by
  induction ms generalizing s with
  | nil => rfl
  | cons m ms ih =>
    rw [applyMoves_cons, applyMoves_cons, ← ih]
    cases m <;> rfl

theorem takeGap_withWrites (s : State) (vs : List PortWrite) :
    ({ s with writes := vs } : State).takeGap = { s.takeGap with writes := vs } := by
  rw [State.takeGap_eq_applyMoves, State.takeGap_eq_applyMoves s, ← applyMoves_withWrites]

theorem takeGap_outputs (s : State) : s.takeGap.ready = s.ready ∧ s.takeGap.writes = s.writes := by
  obtain ⟨bytes, n, d, p, h, -⟩ := s.takeGap_eq
  rw [h]
  exact ⟨rfl, rfl⟩

theorem State.WritesAfter.takeGap_writesAfter {s s' : State} (h : s.WritesAfter ws s') :
    s.takeGap.WritesAfter ws s'.takeGap := by
  subst h
  rw [State.WritesAfter, takeGap_withWrites, (takeGap_outputs s).2]

/-- A DRAIN adds its writes to those the command has made, and reads none of them. -/
theorem drainAll_withWrites (s : State) (ws : List PortWrite) :
    drainAll { s with writes := ws ++ s.writes } = { drainAll s with writes := ws ++ (drainAll s).writes } := by
  refine drainLoop_simulation (State.WritesAfter ws) (fun s s' h => ?_) (fun _ _ => State.WritesAfter.microStep_writesAfter)
    (fun _ _ => State.WritesAfter.takeGap_writesAfter) (fun s s' h => ?_) s.available s _ rfl
  · rw [h]
    exact ⟨rfl, rfl, rfl⟩
  · rw [h]
    rfl

/-! ## DRAIN, one FEED at a time (R133) -/

/-- A DRAIN whose first FEED completes a frame is that FEED. -/
theorem exec_drain_of_ready {rest : List Byte} (hsrc : s.src = b :: rest) (hl : Fsm.legal s.st = true)
    (hu : feedStep b { s with src := rest }.startCommand = u) (hr : u.ready = true) : exec .drain s = .next u := by
  have hmicro : microStep b rest s.startCommand = u := hu
  rw [exec_drain, drainAll_cons s.startCommand b rest hsrc hl, hmicro, if_pos hr]

/-- Any other DRAIN is that FEED, the host's moves in the gap, and a DRAIN of what is then in `SRC`. -/
theorem exec_drain_of_not_ready {rest : List Byte} (hsrc : s.src = b :: rest) (hl : Fsm.legal s.st = true)
    (hu : feedStep b { s with src := rest }.startCommand = u) (hr : u.ready = false)
    (ht : exec .drain u.takeGap = .next t) : exec .drain s = .next { t with writes := u.writes ++ t.writes } := by
  have hmicro : microStep b rest s.startCommand = u := hu
  have hgap : u.takeGap = { u.takeGap.startCommand with writes := u.writes ++ [] } := by
    obtain ⟨hready, hwrites⟩ := takeGap_outputs u
    rw [List.append_nil, State.startCommand, ← hwrites, ← hr, ← hready]
  rw [exec_drain] at ht ⊢
  cases ht
  rw [drainAll_cons s.startCommand b rest hsrc hl, hmicro, hr, if_neg Bool.false_ne_true, hgap]
  exact congrArg _ (drainAll_withWrites u.takeGap.startCommand u.writes)

/-- Settles O30: the first turn of the loop, and the rest of the loop as a DRAIN of its own. -/
theorem drainFeedsTheOldestByteFirst : Obligations.DrainFeedsTheOldestByteFirst := by
  refine ⟨rfl, drainOfAnEmptySourceIsANoOp, fun s u b rest hsrc hl hu => ?_⟩
  have hu : feedStep b { s with src := rest }.startCommand = u := Host.Outcome.next.inj hu
  exact ⟨exec_drain_of_ready hsrc hl hu, fun hr => ⟨_, rfl, exec_drain_of_not_ready hsrc hl hu hr rfl⟩⟩

/-! ## Sequences of FEEDs (30_encoding.md R84) -/

/-- FEEDs of the bytes `bs` from `s` to `t` return the `ready` bits `rs` and write `ws` on the port, all FEEDs together. -/
inductive Fed : State → List Byte → List Bool → List PortWrite → State → Prop
  | nil (s : State) : Fed s [] [] [] s
  | cons {s u t : State} {b : Byte} {bs : List Byte} {rs : List Bool} {ws : List PortWrite}
      (hu : feedStep b s.startCommand = u) (h : Fed u bs rs ws t) : Fed s (b :: bs) (u.ready :: rs) (u.writes ++ ws) t

theorem Fed.runFeeds_eq (h : Fed s bs rs ws t) : runFeeds bs s = some (rs, t) := by
  induction h with
  | nil => rfl
  | cons hu _ ih => rw [runFeeds_cons, hu, ih]; rfl

theorem exists_fed (bs : List Byte) (s : State) : ∃ rs ws t, Fed s bs rs ws t := by
  induction bs generalizing s with
  | nil => exact ⟨_, _, _, .nil s⟩
  | cons b bs ih =>
    obtain ⟨rs, ws, t, h⟩ := ih (feedStep b s.startCommand)
    exact ⟨_, _, _, .cons rfl h⟩

/-- A run of FEEDs, with its writes. -/
theorem fed_of_runFeeds (h : runFeeds bs s = some (rs, t)) : ∃ ws, Fed s bs rs ws t := by
  obtain ⟨rs', ws, t', hfed⟩ := exists_fed bs s
  obtain ⟨rfl, rfl⟩ := Prod.mk.inj (Option.some.inj (hfed.runFeeds_eq.symm.trans h))
  exact ⟨ws, hfed⟩

theorem Fed.append (h : Fed s bs rs ws u) (hu : Fed u cs qs vs t) :
    Fed s (bs ++ cs) (rs ++ qs) (ws ++ vs) t := by
  induction h with
  | nil => exact hu
  | cons hfeed _ ih => rw [List.append_assoc]; exact .cons hfeed (ih hu)

theorem Fed.length_eq (h : Fed s bs rs ws t) : rs.length = bs.length := by
  induction h with
  | nil => rfl
  | cons _ _ ih => rw [List.length_cons, List.length_cons, ih]

theorem Fed.binding_eq (h : Fed s bs rs ws t) : t.bound = s.bound ∧ t.cap = s.cap := by
  induction h with
  | nil => exact ⟨rfl, rfl⟩
  | cons hu _ ih => subst hu; simpa using ih

theorem Fed.src_eq (h : Fed s bs rs ws t) : t.src = s.src := by
  induction h with
  | nil => rfl
  | cons hu _ ih => subst hu; simpa using ih

theorem feedStep_startCommand_writes (b : Byte) (s : State) :
    (feedStep b s.startCommand).writes = s.portWrites b := feedStep_writes b s.startCommand

/-- A buffer after writes to it on the port, oldest first. -/
def Memory.writeAll (m : Memory) (ws : List PortWrite) : Memory :=
  ws.foldl (fun m w => Memory.write m w.off.toNat w.data) m

/-- `DST` changes by the writes on the port and by nothing else (R28). -/
theorem Fed.dst_eq (h : Fed s bs rs ws t) : t.dst = Memory.writeAll s.dst ws := by
  induction h with
  | nil => rfl
  | @cons s u t b bs rs ws hu _ ih =>
    subst hu
    have hdst : (feedStep b s.startCommand).dst = Memory.writeAll s.dst (s.portWrites b) := feedStep_dst b s.startCommand
    rw [ih, hdst, feedStep_startCommand_writes, Memory.writeAll, Memory.writeAll, Memory.writeAll, List.foldl_append]

/-- Every write of a run of FEEDs has an offset below the capacity (R137). -/
theorem Fed.writes_below (h : Fed s bs rs ws t) : ∀ w ∈ ws, w.off < s.cap := by
  induction h with
  | nil => simp
  | @cons s u t b bs rs ws hu _ ih =>
    subst hu
    intro w hw
    rcases List.mem_append.1 hw with hfirst | hlater
    · rw [feedStep_startCommand_writes] at hfirst
      exact (State.portWrites_bound b s w hfirst).2
    · simpa using ih w hlater

/-! ## DRAIN up to the first completion (R133, R236) -/

/-- A FEED step does not read `SRC` (R120). -/
theorem feedStep_withSrc (b : Byte) (s : State) (src : List Byte) :
    feedStep b { s with src := src } = { feedStep b s with src := src } := by
  rcases feed_cases s with h | h | h | ⟨h, hc⟩ | ⟨h, hc⟩ | h | h
  · rw [feedStep_seekHeader1 b s h, feedStep_seekHeader1 b { s with src := src } h]
  · rw [feedStep_seekHeader2 b s h, feedStep_seekHeader2 b { s with src := src } h]
  · rw [feedStep_readLen b s h, feedStep_readLen b { s with src := src } h]
  · rw [feedStep_data b s h hc, feedStep_data b { s with src := src } h hc]; rfl
  · rw [feedStep_zchk b s h hc, feedStep_zchk b { s with src := src } h hc]; rfl
  · rw [feedStep_readChecksum b s h, feedStep_readChecksum b { s with src := src } h]; rfl
  · rw [feedStep_illegal b s h, feedStep_illegal b { s with src := src } h]

/-- A DRAIN of bytes that report a frame at the last of them is their FEEDs, with all their writes, and the bytes behind
them stay in `SRC`. -/
theorem Fed.exec_drain_eq (h : Fed s bs rs ws t) {n : Nat} (hrs : rs = List.replicate n false ++ [true])
    (hgaps : s.gaps = []) (hl : Fsm.legal s.st = true) :
    exec .drain { s with src := bs ++ s.src } = .next { t with writes := ws } := by
  induction h generalizing n with
  | nil => simp at hrs
  | @cons s u t b bs rs ws hu hrest ih =>
    cases n with
    | zero =>
      obtain ⟨hr, hrs⟩ := List.cons.inj hrs
      have hbs : bs = [] := List.length_eq_zero_iff.1 (by rw [← hrest.length_eq, hrs]; rfl)
      subst hbs
      cases hrest
      rw [List.append_nil]
      exact exec_drain_of_ready (s := { s with src := b :: s.src }) rfl hl hu hr
    | succ n =>
      obtain ⟨hr, hrs⟩ := List.cons.inj hrs
      have hfeed : feedStep b { s with src := bs ++ s.src }.startCommand = { u with src := bs ++ u.src } := by
        subst hu
        rw [feedStep_src]
        exact feedStep_withSrc b s.startCommand (bs ++ s.src)
      have hugaps : u.gaps = [] := by subst hu; simpa using hgaps
      have hul : Fsm.legal u.st = true := by subst hu; exact feedStep_legal b s.startCommand hl
      have hdrain : exec .drain ({ u with src := bs ++ u.src } : State).takeGap = .next { t with writes := ws } := by
        rw [State.takeGap_of_nil { u with src := bs ++ u.src } hugaps]
        exact ih hrs hugaps hul
      exact exec_drain_of_not_ready (s := { s with src := b :: (bs ++ s.src) }) rfl hl hfeed hr hdrain

/-- The same, from the state that holds all the bytes in `SRC`. -/
theorem Fed.exec_drain_of_src {rest : List Byte} {n : Nat} (h : Fed { s with src := rest } bs rs ws t)
    (hrs : rs = List.replicate n false ++ [true]) (hsrc : s.src = bs ++ rest) (hgaps : s.gaps = [])
    (hl : Fsm.legal s.st = true) : exec .drain s = .next { t with writes := ws } := by
  have hs : s = { s with src := bs ++ rest } := by rw [← hsrc]
  exact (congrArg (exec .drain) hs).trans (h.exec_drain_eq hrs hgaps hl)

/-- Settles O33: the run of FEEDs with its writes, and FEEDs take nothing from `SRC`. -/
theorem drainStopsAtTheFirstCompletion : Obligations.DrainStopsAtTheFirstCompletion := by
  intro s t p rest n hgaps hl hsrc hrun
  obtain ⟨ws, hfed⟩ := fed_of_runFeeds hrun
  exact ⟨ws, hfed.exec_drain_of_src rfl hsrc hgaps hl, hfed.src_eq⟩

end Sys2Proof.Machine
end

section
/-! PROOFS. What a decoder does with a frame's bytes (41_decoder.md R137 to R142), fed or drained: the header, and then the
body with a checksum byte of any value. -/

namespace Sys2Proof.Machine

variable {s t : State} {bs : List Byte} {rs : List Bool} {ws : List PortWrite}

/-! ## The header (R121 to R126) -/

/-- From the header search, both header bytes and a length start the body, whatever the length byte is. -/
theorem fed_header (l : Byte) (hst : s.st = Fsm.seekHeader1 ∨ s.st = Fsm.seekHeader2) :
    Fed s [Config.header1, Config.header2, l] [false, false, false] []
      { s with st := Fsm.readBody, len := l, acc := l, cnt := 0#8, ready := false, writes := [] } :=
  .cons (feedStep_header1 hst) (.cons (feedStep_header2 rfl) (.cons (feedStep_readLen l _ rfl) (.nil _)))

/-! ## The body and its checksum byte (R127 to R130) -/

/-- `n` data bytes are still to come before the checksum byte. -/
def State.Awaits (n : Nat) (s : State) : Prop :=
  s.cnt.toNat + n = s.len.toNat ∧ (s.st = Fsm.readBody ∨ n = 0 ∧ s.st = Fsm.readChecksum)

/-- With no data byte to come, the next byte is the checksum byte, of an empty payload or not (R129, R130). -/
theorem State.Awaits.feedStep_check (h : s.Awaits 0) (c : Byte) (hbound : s.bound = true) :
    feedStep c s.startCommand = { s with st := Fsm.seekHeader1, cnt := s.len, ready := c == s.acc, writes := [] } := by
  obtain ⟨hcnt, hst⟩ := h
  have hcnt : s.cnt = s.len := BitVec.eq_of_toNat_eq hcnt
  have hready : s.startCommand.frameReady c = (c == s.acc) := by simp [State.frameReady, hbound]
  rcases hst with hst | ⟨-, hst⟩
  · rw [feedStep_zchk c s.startCommand hst hcnt, hready]; simp [State.startCommand, hcnt]
  · rw [feedStep_readChecksum c s.startCommand hst, hready]; simp [State.startCommand, hcnt]

/-- The gated write of a data byte, while a destination is bound (R128). -/
def gatedWrite (cap cnt b : Byte) : List PortWrite := if cnt < cap then [⟨cnt, b⟩] else []

/-- While bytes are awaited the next one is a data byte, and counting it does not wrap. -/
theorem State.Awaits.data_byte {n : Nat} (h : s.Awaits (n + 1)) :
    s.st = Fsm.readBody ∧ s.cnt ≠ s.len ∧ (s.cnt + 1#8).toNat + n = s.len.toNat := by
  obtain ⟨hcnt, hst⟩ := h
  refine ⟨by simpa using hst, ?_, ?_⟩ <;> bv_omega

/-- A data byte is folded, counted and, behind the gate, written (R127, R128). -/
theorem State.Awaits.feedStep_data_byte {n : Nat} (h : s.Awaits (n + 1)) (b : Byte) (hbound : s.bound = true) :
    feedStep b s.startCommand =
      { s with st := if s.cnt + 1#8 = s.len then Fsm.readChecksum else Fsm.readBody,
               acc := s.acc ^^^ b, cnt := s.cnt + 1#8, ready := false,
               writes := gatedWrite s.cap s.cnt b, dst := Memory.writeAll s.dst (gatedWrite s.cap s.cnt b) } := by
  obtain ⟨hst, hne, -⟩ := h.data_byte
  have hgate : s.startCommand.dstGate = true ↔ s.cnt < s.cap := State.dstGate_iff.trans (and_iff_right hbound)
  refine (feedStep_data b s.startCommand hst hne).trans ?_
  simp only [hgate, gatedWrite]
  by_cases hlow : s.cnt < s.cap
  · simp only [hlow, if_true]; rfl
  · simp only [hlow, if_false]; rfl

/-- After a data byte one byte fewer is awaited. -/
theorem State.Awaits.awaits_feedStep {n : Nat} (h : s.Awaits (n + 1)) (b : Byte) (hbound : s.bound = true) :
    (feedStep b s.startCommand).Awaits n := by
  obtain ⟨-, -, hcnt⟩ := h.data_byte
  rw [h.feedStep_data_byte b hbound]
  refine ⟨hcnt, ?_⟩
  dsimp only
  split
  · have hlast : s.cnt + 1#8 = s.len := ‹_›
    rw [hlast] at hcnt
    exact .inr ⟨by omega, rfl⟩
  · exact .inl rfl

/-- The writes of data bytes from the offset `cnt` on, each behind the gate (R128, R137). -/
def dataWrites (cap : Byte) : Byte → List Byte → List PortWrite
  | _, [] => []
  | cnt, b :: p => gatedWrite cap cnt b ++ dataWrites cap (cnt + 1#8) p

/-- The rest of the body and a checksum byte `c` of any value: a frame is reported at `c` exactly if `c` is the fold. -/
theorem State.Awaits.fed_body {p : List Byte} (h : s.Awaits p.length) (c : Byte) (hbound : s.bound = true) :
    Fed s (p ++ [c]) (List.replicate p.length false ++ [c == checksumFold s.acc p]) (dataWrites s.cap s.cnt p)
      { s with st := Fsm.seekHeader1, acc := checksumFold s.acc p, cnt := s.len, ready := c == checksumFold s.acc p,
               writes := [], dst := Memory.writeAll s.dst (dataWrites s.cap s.cnt p) } := by
  induction p generalizing s with
  | nil => exact .cons (h.feedStep_check c hbound) (.nil _)
  | cons b p ih =>
    have hfeed := h.feedStep_data_byte b hbound
    have hrest := ih (h.awaits_feedStep b hbound) (by rwa [feedStep_bound])
    rw [hfeed] at hrest
    rw [dataWrites, Memory.writeAll, List.foldl_append]
    exact .cons hfeed hrest

/-- From the header search, bound: a length, as many bytes and a checksum byte of any value end the attempt, with a frame
reported exactly if that byte is the fold (R131, R138). -/
theorem fed_attempt {l : Byte} {p : List Byte} (hlen : p.length = l.toNat) (c : Byte) (hbound : s.bound = true)
    (hst : s.st = Fsm.seekHeader1 ∨ s.st = Fsm.seekHeader2) :
    Fed s ([Config.header1, Config.header2, l] ++ p ++ [c])
      (List.replicate (p.length + 3) false ++ [c == checksumFold l p]) (dataWrites s.cap 0#8 p)
      { s with st := Fsm.seekHeader1, len := l, cnt := l, acc := checksumFold l p, ready := c == checksumFold l p,
               writes := [], dst := Memory.writeAll s.dst (dataWrites s.cap 0#8 p) } := by
  have hbody := State.Awaits.fed_body (p := p) (c := c)
    (s := { s with st := Fsm.readBody, len := l, acc := l, cnt := 0#8, ready := false, writes := [] })
    ⟨(Nat.zero_add _).trans hlen, .inl rfl⟩ hbound
  rw [List.append_assoc, Nat.add_comm, List.replicate_add, List.append_assoc]
  exact (fed_header l hst).append hbody

/-- The frame of a payload, in its parts. -/
theorem frameOf_parts {p f : List Byte} (h : frameOf p = some f) :
    p.length = (BitVec.ofNat 8 p.length).toNat ∧
    f = [Config.header1, Config.header2, BitVec.ofNat 8 p.length] ++ p ++ [checksumFold (BitVec.ofNat 8 p.length) p] := by
  obtain ⟨hp, hf⟩ := (frameOf_eq_some_iff p f).1 h
  exact ⟨(Nat.mod_eq_of_lt (Nat.lt_succ_of_le hp)).symm, hf⟩

/-- A frame fed from the header search is reported at its last byte (R138). -/
theorem fed_frame {p f : List Byte} (hf : frameOf p = some f) (hbound : s.bound = true)
    (hst : s.st = Fsm.seekHeader1 ∨ s.st = Fsm.seekHeader2) :
    Fed s f (List.replicate (p.length + 3) false ++ [true]) (dataWrites s.cap 0#8 p)
      { s with st := Fsm.seekHeader1, len := BitVec.ofNat 8 p.length, cnt := BitVec.ofNat 8 p.length,
               acc := checksumFold (BitVec.ofNat 8 p.length) p, ready := true, writes := [],
               dst := Memory.writeAll s.dst (dataWrites s.cap 0#8 p) } := by
  obtain ⟨hlen, rfl⟩ := frameOf_parts hf
  have hfed := fed_attempt hlen (checksumFold (BitVec.ofNat 8 p.length) p) hbound hst
  rwa [beq_self_eq_true] at hfed

/-! ## Where the payload stands in `DST` (R137) -/

/-- The gated write of one byte stands at its offset, and every other offset reads as before. -/
theorem Memory.read_writeAll_gatedWrite (m : Memory) (cap cnt b : Byte) (a : Nat) :
    Memory.read (Memory.writeAll m (gatedWrite cap cnt b)) a =
      if a = cnt.toNat ∧ a < cap.toNat then some b else Memory.read m a := by
  unfold gatedWrite
  split
  · have hlt : cnt.toNat < cap.toNat := ‹_›
    have : a = cnt.toNat ∧ a < cap.toNat ↔ a = cnt.toNat := ⟨And.left, fun h => ⟨h, h ▸ hlt⟩⟩
    simp only [this]
    exact Memory.read_write m _ a b
  · have hge : ¬ cnt.toNat < cap.toNat := ‹_›
    exact (if_neg fun h : a = cnt.toNat ∧ a < cap.toNat => hge (h.1 ▸ h.2)).symm

/-- The payload's bytes stand at the offsets from `cnt` on below the capacity, and every other offset reads as before. -/
theorem Memory.read_writeAll_dataWrites (cap cnt : Byte) (p : List Byte) (m : Memory) (hp : cnt.toNat + p.length < 256)
    (a : Nat) : Memory.read (Memory.writeAll m (dataWrites cap cnt p)) a =
      if h : cnt.toNat ≤ a ∧ a - cnt.toNat < p.length ∧ a < cap.toNat then some (p[a - cnt.toNat]'h.2.1)
      else Memory.read m a := by
  induction p generalizing cnt m with
  | nil => simp [dataWrites, Memory.writeAll]
  | cons b p ih =>
    rw [List.length_cons] at hp
    have hsucc : (cnt + 1#8).toNat = cnt.toNat + 1 := by bv_omega
    have happend : Memory.writeAll m (dataWrites cap cnt (b :: p)) =
        Memory.writeAll (Memory.writeAll m (gatedWrite cap cnt b)) (dataWrites cap (cnt + 1#8) p) := List.foldl_append
    rw [happend, ih _ _ (by omega), Memory.read_writeAll_gatedWrite]
    simp only [hsucc, List.length_cons]
    rcases Nat.lt_trichotomy a cnt.toNat with hlt | heq | hgt
    · rw [dif_neg (by omega), if_neg (by omega), dif_neg (by omega)]
    · subst heq
      simp
    · have hsub : a - cnt.toNat = (a - (cnt.toNat + 1)) + 1 := by omega
      rw [if_neg (by omega)]
      simp [hsub, hgt.le, Nat.succ_le_of_lt hgt]

/-- Every byte of a payload below the capacity stands at its own offset. -/
theorem Memory.read_payload_byte (m : Memory) (cap : Byte) {p : List Byte} (hp : p.length < 256) {i : Nat}
    (hi : i < p.length) (hcap : i < cap.toNat) :
    Memory.read (Memory.writeAll m (dataWrites cap 0#8 p)) i = some p[i] := by
  rw [Memory.read_writeAll_dataWrites cap 0#8 p m (by simpa using hp), dif_pos ⟨Nat.zero_le i, hi, hcap⟩]
  rfl

/-- Past the payload and from the capacity on `DST` reads as before. -/
theorem Memory.read_past_payload (m : Memory) (cap : Byte) {p : List Byte} (hp : p.length < 256) {a : Nat}
    (ha : p.length ≤ a ∨ cap.toNat ≤ a) :
    Memory.read (Memory.writeAll m (dataWrites cap 0#8 p)) a = Memory.read m a := by
  rw [Memory.read_writeAll_dataWrites cap 0#8 p m (by simpa using hp), dif_neg]
  rintro ⟨-, hi, hcap⟩
  simp only [BitVec.toNat_ofNat, Nat.zero_mod, Nat.sub_zero] at hi
  omega

/-- The writes of data bytes, as the bytes below the capacity at their offsets. -/
theorem dataWrites_eq_mapIdx (cap cnt : Byte) (p : List Byte) (hp : cnt.toNat + p.length < 256) :
    dataWrites cap cnt p = (p.take (cap.toNat - cnt.toNat)).mapIdx fun i b => ⟨cnt + BitVec.ofNat 8 i, b⟩ := by
  induction p generalizing cnt with
  | nil => simp [dataWrites]
  | cons b p ih =>
    rw [List.length_cons] at hp
    have hsucc : (cnt + 1#8).toNat = cnt.toNat + 1 := by bv_omega
    rw [dataWrites, ih (cnt + 1#8) (by omega), hsucc, gatedWrite]
    split
    · have hlt : cnt.toNat < cap.toNat := ‹_›
      have htake : cap.toNat - cnt.toNat = cap.toNat - (cnt.toNat + 1) + 1 := by omega
      have hoff (i : Nat) : cnt + 1#8 + BitVec.ofNat 8 i = cnt + BitVec.ofNat 8 (i + 1) := by
        rw [BitVec.add_assoc, Nat.add_comm, BitVec.ofNat_add]
      rw [htake, List.take_succ_cons, List.mapIdx_cons, BitVec.add_zero]
      simp only [hoff]
      rfl
    · have hge : ¬ cnt.toNat < cap.toNat := ‹_›
      simp [show cap.toNat - (cnt.toNat + 1) = 0 by omega, show cap.toNat - cnt.toNat = 0 by omega]

/-- A payload's writes are those the rule names (R137). -/
theorem dataWrites_zero (cap : Byte) {p : List Byte} (hp : p.length < 256) :
    dataWrites cap 0#8 p = payloadWrites cap p := by
  rw [dataWrites_eq_mapIdx cap 0#8 p (by simpa using hp), payloadWrites]
  simp

/-! ## Frames fed and drained (R138, R139, R236) -/

theorem length_lt_of_frameOf {p f : List Byte} (h : frameOf p = some f) : p.length < 256 :=
  Nat.lt_succ_of_le ((frameOf_eq_some_iff p f).1 h).1

/-- Settles O55: a frame is an attempt whose checksum byte is the fold, and its writes are the payload's. -/
theorem framedStartReceivesThePayload : Obligations.FramedStartReceivesThePayload := by
  intro s p f hf hbound hst
  exact ⟨_, (fed_frame hf hbound hst).runFeeds_eq, rfl, rfl, rfl, rfl,
    fun i hi hcap => Memory.read_payload_byte s.dst s.cap (length_lt_of_frameOf hf) hi hcap⟩

/-- Settles O34: the DRAIN is the FEEDs of the frame, with all their writes. -/
theorem drainReceivesAFrame : Obligations.DrainReceivesAFrame := by
  intro s p f rest hgaps hbound hf hst hsrc
  have hp := length_lt_of_frameOf hf
  have hlegal : Fsm.legal s.st = true := by rcases hst with h | h <;> rw [h] <;> rfl
  have hfed := fed_frame (s := { s with src := rest }) hf hbound hst
  refine ⟨Memory.writeAll s.dst (dataWrites s.cap 0#8 p), ?_,
    fun a ha hcap => Memory.read_payload_byte s.dst s.cap hp ha hcap,
    fun a ha => Memory.read_past_payload s.dst s.cap hp ha⟩
  rw [hfed.exec_drain_of_src rfl hsrc hgaps hlegal, dataWrites_zero s.cap hp]

/-- Bytes without `HEADER_1` are discarded in `SEEK_HEADER_1` (R122, R139). -/
theorem fed_garbage {g : List Byte} (hg : Config.header1 ∉ g) (hst : s.st = Fsm.seekHeader1) :
    ∃ t, Fed s g (List.replicate g.length false) [] t ∧ t.st = Fsm.seekHeader1 := by
  induction g generalizing s with
  | nil => exact ⟨s, .nil s, hst⟩
  | cons b g ih =>
    obtain ⟨hb, hg⟩ := not_or.1 (mt List.mem_cons.2 hg)
    have hfeed : feedStep b s.startCommand = { s with st := Fsm.seekHeader1, ready := false, writes := [] } := by
      rw [feedStep_seekHeader1 b s.startCommand hst, if_neg (Ne.symm hb)]; rfl
    obtain ⟨t, hrest, ht⟩ := ih hg (s := { s with st := Fsm.seekHeader1, ready := false, writes := [] }) rfl
    exact ⟨t, .cons hfeed hrest, ht⟩

/-- Settles O56: the garbage leaves the decoder searching, with its binding, and the frame starts there. -/
theorem garbageWithoutHeaderIsSkipped : Obligations.GarbageWithoutHeaderIsSkipped := by
  intro s g p f hf hbound hst hg
  obtain ⟨u, hgarbage, hu⟩ := fed_garbage hg hst
  obtain ⟨hubound, hucap⟩ := hgarbage.binding_eq
  have hfed := hgarbage.append (fed_frame hf (hubound.trans hbound) (.inl hu))
  have hrun := hfed.runFeeds_eq
  rw [← List.append_assoc, ← List.replicate_add, ← Nat.add_assoc] at hrun
  exact ⟨_, hrun, rfl,
    fun i hi hcap => Memory.read_payload_byte u.dst u.cap (length_lt_of_frameOf hf) hi (hucap.symm ▸ hcap)⟩

/-! ## The capacity does not decide (R140) -/

/-- Two states that differ in the capacity and in what depends on it: `DST` and the writes on its port. -/
def State.EqUpToCapacity (s s' : State) : Prop :=
  ∃ (c : Byte) (d : Memory) (ws : List PortWrite), s' = { s with cap := c, dst := d, writes := ws }

theorem State.EqUpToCapacity.feedStep_eqUpToCapacity {s s' : State} (b : Byte) (h : s.EqUpToCapacity s') :
    (feedStep b s).EqUpToCapacity (feedStep b s') := by
  obtain ⟨c, d, ws, rfl⟩ := h
  generalize hs' : ({ s with cap := c, dst := d, writes := ws } : State) = s'
  rcases feed_cases s with h | h | h | ⟨h, hc⟩ | ⟨h, hc⟩ | h | h
  · rw [feedStep_seekHeader1 b s h, feedStep_seekHeader1 b s' (hs' ▸ h), ← hs']; exact ⟨c, d, ws, rfl⟩
  · rw [feedStep_seekHeader2 b s h, feedStep_seekHeader2 b s' (hs' ▸ h), ← hs']; exact ⟨c, d, ws, rfl⟩
  · rw [feedStep_readLen b s h, feedStep_readLen b s' (hs' ▸ h), ← hs']; exact ⟨c, d, ws, rfl⟩
  · rw [feedStep_data b s h hc, feedStep_data b s' (hs' ▸ h) (hs' ▸ hc), ← hs']; exact ⟨c, _, _, rfl⟩
  · rw [feedStep_zchk b s h hc, feedStep_zchk b s' (hs' ▸ h) (hs' ▸ hc), ← hs']; exact ⟨c, d, ws, rfl⟩
  · rw [feedStep_readChecksum b s h, feedStep_readChecksum b s' (hs' ▸ h), ← hs']; exact ⟨c, d, ws, rfl⟩
  · rw [feedStep_illegal b s h, feedStep_illegal b s' (hs' ▸ h), ← hs']; exact ⟨c, d, ws, rfl⟩

theorem State.EqUpToCapacity.startCommand_eqUpToCapacity {s s' : State} (h : s.EqUpToCapacity s') :
    s.startCommand.EqUpToCapacity s'.startCommand := by
  obtain ⟨c, d, ws, rfl⟩ := h
  exact ⟨c, d, [], rfl⟩

/-- FEEDs of the same bytes return the same `ready` bits at any two capacities. -/
theorem Fed.exists_eqUpToCapacity {s' : State} (hfed : Fed s bs rs ws t) (h : s.EqUpToCapacity s') :
    ∃ ws' t', Fed s' bs rs ws' t' ∧ t.EqUpToCapacity t' := by
  induction hfed generalizing s' with
  | nil => exact ⟨[], s', .nil s', h⟩
  | @cons s u t b bs rs ws hu _ ih =>
    subst hu
    have hstep := h.startCommand_eqUpToCapacity.feedStep_eqUpToCapacity b
    obtain ⟨ws', t', hrest, ht⟩ := ih hstep
    have hready : (feedStep b s.startCommand).ready = (feedStep b s'.startCommand).ready := by
      obtain ⟨c, d, vs, heq⟩ := hstep
      rw [heq]
    rw [hready]
    exact ⟨_, t', .cons rfl hrest, ht⟩

/-- Settles O57: the runs at two capacities go in step, and the writes of the second stay below its own. -/
theorem capacityNeverAffectsReady : Obligations.CapacityNeverAffectsReady := by
  intro bytes s c _
  obtain ⟨rs, ws, t, hfed⟩ := exists_fed bytes s
  obtain ⟨ws', t', hfed', ht⟩ := hfed.exists_eqUpToCapacity (s' := { s with cap := c }) ⟨c, s.dst, s.writes, rfl⟩
  have hdst (a : Nat) (ha : c.toNat ≤ a) : Memory.read t'.dst a = Memory.read s.dst a := by
    rw [hfed'.dst_eq]
    refine Memory.read_foldl_write_other ws' s.dst a fun w hw => ?_
    have hlt : w.off.toNat < c.toNat := hfed'.writes_below w hw
    omega
  obtain ⟨c', d, vs, rfl⟩ := ht
  exact ⟨rs, t, _, hfed.runFeeds_eq, hfed'.runFeeds_eq, rfl, rfl, rfl, rfl, hdst⟩

/-! ## A flipped bit (R142) -/

/-- An attempt with a checksum byte other than the fold reports nothing and ends in the header search. -/
theorem runFeeds_bad_checksum {l c : Byte} {p : List Byte} (hlen : p.length = l.toNat) (hbound : s.bound = true)
    (hst : s.st = Fsm.seekHeader1 ∨ s.st = Fsm.seekHeader2) (hc : c ≠ checksumFold l p) :
    ∃ t, runFeeds ([0x06#8, 0x85#8, l] ++ p ++ [c]) s = some (List.replicate (p.length + 4) false, t) ∧
      t.st = Fsm.seekHeader1 := by
  have hbad : (c == checksumFold l p) = false := beq_false_of_ne hc
  have hrun := (fed_attempt hlen c hbound hst).runFeeds_eq
  rw [hbad, ← List.replicate_succ'] at hrun
  exact ⟨_, hrun, rfl⟩

/-- Flipping a bit of a byte changes it. -/
theorem xor_bit_ne (x : Byte) {k : Nat} (hk : k < 8) : x ^^^ (1#8 <<< k) ≠ x := by
  have hbit : ∀ k < 8, 1#8 <<< k ≠ 0#8 := by decide
  exact fun h => hbit k hk ((BitVec.xor_right_inj x).1 (h.trans (BitVec.xor_zero (x := x)).symm))

/-- A flip of the start value flips the fold. -/
theorem checksumFold_xor (l m : Byte) (p : List Byte) : checksumFold (l ^^^ m) p = checksumFold l p ^^^ m := by
  induction p generalizing l with
  | nil => rfl
  | cons b p ih =>
    have hcomm : l ^^^ m ^^^ b = l ^^^ b ^^^ m := foldByte_right_comm l m b
    rw [checksumFold_cons, checksumFold_cons, hcomm, ih]

/-- A flip of one payload byte flips the fold. -/
theorem checksumFold_set_xor (l m : Byte) (p : List Byte) (i : Nat) (hi : i < p.length) :
    checksumFold l (p.set i (p[i] ^^^ m)) = checksumFold l p ^^^ m := by
  induction p generalizing l i with
  | nil => exact absurd hi (Nat.not_lt_zero i)
  | cons b p ih =>
    cases i with
    | zero => exact (congrArg (checksumFold · p) (BitVec.xor_assoc l b m).symm).trans (checksumFold_xor (l ^^^ b) m p)
    | succ i => exact ih (l ^^^ b) i (Nat.lt_of_succ_lt_succ hi)

/-- Settles O58: one flipped bit leaves the checksum byte and the fold different. -/
theorem oneBitFlipIsDetected : Obligations.OneBitFlipIsDetected := by
  intro s p k hp hk hbound hst l
  have hlen : p.length = l.toNat := (Nat.mod_eq_of_lt (Nat.lt_succ_of_le hp)).symm
  refine ⟨runFeeds_bad_checksum hlen hbound hst (xor_bit_ne _ hk), fun i hi => ?_⟩
  have hfold := checksumFold_set_xor l (1#8 <<< k) p i hi
  have hbad := runFeeds_bad_checksum (s := s) (c := checksumFold l p) ((List.length_set ..).trans hlen) hbound hst
    (by rw [hfold]; exact (xor_bit_ne _ hk).symm)
  rwa [List.length_set] at hbad

end Sys2Proof.Machine
end

section
/-! PROOFS. The commands that move no bytes (42_control.md R160 to R166): NOP, the two rebindings and the refused rows. -/

namespace Sys2Proof

/-! ## The refused words as their fields in place (30_encoding.md R79, R81) -/

/-- A word as its code in bits 15 to 13 and the other bits below. -/
theorem append_low_eq_or (cmd : BitVec 3) (low : BitVec 13) :
    (cmd ++ low : Word) = cmd.setWidth 16 <<< 13 ||| low.setWidth 16 := by grind

/-- A word as its three fields in place. -/
theorem append_fields_eq_or (cmd : BitVec 3) (rsv : BitVec 5) (opd : Byte) :
    (cmd ++ rsv ++ opd : Word) = cmd.setWidth 16 <<< 13 ||| rsv.setWidth 16 <<< 8 ||| opd.setWidth 16 := by grind

/-- A word whose `rsv` field, in place, is its open bits and its row's mark. -/
theorem append_fields_eq_or_of_rsv {rsv : BitVec 5} {bits mark : Word}
    (h : rsv.setWidth 16 <<< 8 = bits ||| mark) (cmd : BitVec 3) (opd : Byte) :
    (cmd ++ rsv ++ opd : Word) = cmd.setWidth 16 <<< 13 ||| bits ||| mark ||| opd.setWidth 16 := by
  rw [append_fields_eq_or, h, ← BitVec.or_assoc]

theorem word110_eq_or (low : BitVec 13) : word110 low = 0xC000#16 ||| low.setWidth 16 := append_low_eq_or 6#3 low

theorem word111_eq_or (low : BitVec 13) : word111 low = 0xE000#16 ||| low.setWidth 16 := append_low_eq_or 7#3 low

theorem wordRsv0_eq_or (cmd : BitVec 3) (hi : BitVec 4) (opd : Byte) : wordRsv0 cmd hi opd =
    cmd.setWidth 16 <<< 13 ||| hi.setWidth 16 <<< 9 ||| 0x0100#16 ||| opd.setWidth 16 :=
  (wordRsv0_fields cmd hi opd).trans (append_fields_eq_or_of_rsv (by revert hi; decide) cmd opd)

theorem wordRsv1_eq_or (cmd : BitVec 3) (hi : BitVec 3) (opd : Byte) : wordRsv1 cmd hi opd =
    cmd.setWidth 16 <<< 13 ||| hi.setWidth 16 <<< 10 ||| 0x0200#16 ||| opd.setWidth 16 :=
  (wordRsv1_fields cmd hi opd).trans (append_fields_eq_or_of_rsv (by revert hi; decide) cmd opd)

theorem wordRsv2_eq_or (cmd : BitVec 3) (hi : BitVec 2) (opd : Byte) : wordRsv2 cmd hi opd =
    cmd.setWidth 16 <<< 13 ||| hi.setWidth 16 <<< 11 ||| 0x0400#16 ||| opd.setWidth 16 :=
  (wordRsv2_fields cmd hi opd).trans (append_fields_eq_or_of_rsv (by revert hi; decide) cmd opd)

theorem wordRsv3_eq_or (cmd : BitVec 3) (hi : BitVec 1) (opd : Byte) : wordRsv3 cmd hi opd =
    cmd.setWidth 16 <<< 13 ||| hi.setWidth 16 <<< 12 ||| 0x0800#16 ||| opd.setWidth 16 :=
  (wordRsv3_fields cmd hi opd).trans (append_fields_eq_or_of_rsv (by revert hi; decide) cmd opd)

theorem wordRsv4_eq_or (cmd : BitVec 3) (opd : Byte) : wordRsv4 cmd opd =
    cmd.setWidth 16 <<< 13 ||| 0x1000#16 ||| opd.setWidth 16 := append_fields_eq_or cmd 16#5 opd

end Sys2Proof

namespace Sys2Proof.Machine

/-! ## The refused rows (R166) -/

/-- An instruction that is no command refuses the word it is written as, however the word is put together. -/
theorem refusesWord_of_encode {i : Instr} {v w : Word} (hi : isCommand i = false) (h : encode i = .command v)
    (hvw : v = w) : RefusesWord i w :=
  refusesWord_of_exec (exec_eq_refuseWord hi (hvw ▸ h))

/-- Settles O44: each row refuses the word it is written as, which is its fields in place. -/
theorem refusedRowsRecordTheirWord : Obligations.RefusedRowsRecordTheirWord :=
  ⟨fun low => refusesWord_of_encode rfl rfl (word110_eq_or low),
    fun low => refusesWord_of_encode rfl rfl (word111_eq_or low),
    fun cmd hi opd => refusesWord_of_encode rfl rfl (wordRsv0_eq_or cmd hi opd),
    fun cmd hi opd => refusesWord_of_encode rfl rfl (wordRsv1_eq_or cmd hi opd),
    fun cmd hi opd => refusesWord_of_encode rfl rfl (wordRsv2_eq_or cmd hi opd),
    fun cmd hi opd => refusesWord_of_encode rfl rfl (wordRsv3_eq_or cmd hi opd),
    fun cmd opd => refusesWord_of_encode rfl rfl (wordRsv4_eq_or cmd opd),
    fun opd => refusesWord_of_encode rfl rfl (commandWord_eq_or 0#3 opd),
    fun opd => refusesWord_of_encode rfl rfl (commandWord_eq_or 2#3 opd),
    fun opd => refusesWord_of_encode rfl rfl (commandWord_eq_or 4#3 opd)⟩

/-! ## Who reports a frame (R165) -/

/-- A rebinding reports nothing (R161, R162). -/
theorem rebind_ready (s : State) (bound : Bool) (cap : Byte) :
    ({ s.startCommand.markRebind with bound := bound, cap := cap } : State).ready = false := by
  rw [State.markRebind_eq]
  rfl

/-- Settles O49: of what a completing instruction can do, only a checksum byte and a DRAIN leave `ready = 1`; whatever else
it does starts from `ready = 0`. -/
theorem onlyFeedAndDrainReportAFrame : Obligations.OnlyFeedAndDrainReportAFrame := by
  intro i s t hexec hready
  rcases exec_inversion s i t hexec with
    ⟨b, -, hfeed | hzchk | hrchk | hquiet, -⟩ | ⟨hdrain, -⟩ | ⟨w, rfl⟩ | rfl | ⟨c, -, rfl⟩ | ⟨-, rfl⟩ | ⟨l, -, rfl⟩
  · exact .inl hfeed
  · exact .inr (.inr (.inl hzchk))
  · exact .inr (.inr (.inr hrchk))
  · exact absurd hready (Bool.eq_false_iff.1 hquiet)
  · exact .inr (.inl hdrain)
  · exact absurd hready Bool.false_ne_true
  · exact absurd hready Bool.false_ne_true
  · exact absurd hready (Bool.eq_false_iff.1 (rebind_ready s true c))
  · exact absurd hready (Bool.eq_false_iff.1 (rebind_ready s false 0#8))
  · exact absurd hready Bool.false_ne_true

/-! ## NOP, BIND and UNBIND (R160 to R164) -/

/-- Settles O41: NOP only starts a command. -/
theorem nopChangesNothing : Obligations.NopChangesNothing := ⟨rfl, exec_nop⟩

/-- A rebinding in the middle of a frame faults (R163, R202). -/
theorem State.markRebind_of_midframe {s : State}
    (h : (s.st = Fsm.readBody ∨ s.st = Fsm.readChecksum) ∧ s.cnt ≠ 0#8) : s.markRebind = s.raise .rebindMidframe :=
  if_pos (s.midframe_iff.2 h)

/-- Outside a frame, and before its first payload byte, a rebinding leaves the mark alone. -/
theorem State.markRebind_of_not_midframe {s : State}
    (h : ¬ ((s.st = Fsm.readBody ∨ s.st = Fsm.readChecksum) ∧ s.cnt ≠ 0#8)) : s.markRebind = s :=
  if_neg (mt s.midframe_iff.1 h)

/-- Settles O42: the word by its fields; the mark by the mid-frame test, which the start of the command leaves as it was. -/
theorem bindSetsTheBinding : Obligations.BindSetsTheBinding := by
  refine ⟨fun c => congrArg Code.command (commandWord_eq_or 3#3 c), fun c s => ⟨fun hout => ?_, fun hmid => ?_⟩⟩
  · rw [exec_bind, State.markRebind_of_not_midframe (s := s.startCommand) hout]
    rfl
  · rw [exec_bind, State.markRebind_of_midframe (s := s.startCommand) hmid]
    rfl

/-- Settles O43: the mark as for BIND, before the binding is cleared. -/
theorem unbindClearsTheBinding : Obligations.UnbindClearsTheBinding := by
  refine ⟨rfl, fun s => ⟨fun hout => ?_, fun hmid => ?_⟩⟩
  · rw [exec_unbind, State.markRebind_of_not_midframe (s := s.startCommand) hout]
    rfl
  · rw [exec_unbind, State.markRebind_of_midframe (s := s.startCommand) hmid]
    rfl

end Sys2Proof.Machine
end

section
/-! PROOFS. The host layer (43_orchestrator.md R181 to R183): a send as one ENCODE of the payload it put into `PAY`, and a
request as DRAINs. -/

namespace Sys2Proof.Machine

/-! ## Sends (R181, R182, R205) -/

theorem sendPayload_of_gt {p : List Byte} (h : 255 < p.length) (s : State) : sendPayload p s = .refused .encodeTooLong :=
  if_pos h

theorem sendPayload_of_le {p : List Byte} (h : p.length ≤ 255) (s : State) :
    sendPayload p s = exec (.encode (BitVec.ofNat 8 p.length)) (writePayload 0 p s) := if_neg (Nat.not_lt_of_le h)

theorem sendCalls_eq_none_of_gt {p : List Byte} (h : 255 < p.length) : sendCalls p = none := by
  rw [sendCalls, frameOf_of_gt p h, Option.map_none]

theorem sendCalls_of_frame {p f : List Byte} (h : frameOf p = some f) : sendCalls p = some [.write f] := by
  rw [sendCalls, h, Option.map_some]

theorem addressedSendCalls_eq_none_of_gt (address : Nat) {p : List Byte} (h : 255 < p.length) :
    addressedSendCalls address p = none := by
  rw [addressedSendCalls_eq, frameOf_of_gt p h, Option.map_none]

theorem addressedSendCalls_of_frame (address : Nat) {p f : List Byte} (h : frameOf p = some f) :
    addressedSendCalls address p = some [.begin address, .write f, .finish] := by
  rw [addressedSendCalls_eq, h, Option.map_some]

/-- Where `PAY` holds a payload from offset 0 on, ENCODE of its length reads that payload (R52, R100). -/
theorem payload_eq_of_read {l : Byte} {s : State} {p : List Byte} (hlen : p.length = l.toNat)
    (h : ∀ (i : Nat) (hi : i < p.length), Memory.read s.pay i = some p[i]) : s.payload l = p :=
  List.ext_getElem ((length_payload l s).trans hlen.symm) fun i hpay hi => payload_getElem_of_read hpay (h i hi)

/-- Settles O39: the payload, once in `PAY`, is what ENCODE reads back, so the frame it appends is the payload's own. -/
theorem sendRefusesOrAppendsTheFrame : Obligations.SendRefusesOrAppendsTheFrame := by
  intro p s address
  refine ⟨fun hgt => ⟨sendPayload_of_gt hgt s, sendCalls_eq_none_of_gt hgt, addressedSendCalls_eq_none_of_gt address hgt⟩,
    fun hle => ?_⟩
  obtain ⟨d, hfill, hin, hout⟩ := writePayload_eq p 0 s (by omega)
  simp only [Nat.zero_add] at hin hout
  have hlen : p.length = (BitVec.ofNat 8 p.length).toNat := (Nat.mod_eq_of_lt (Nat.lt_succ_of_le hle)).symm
  have hpay : State.payload (BitVec.ofNat 8 p.length) { s with pay := d } = p := payload_eq_of_read hlen hin
  have hf := frameOf_of_le p hle
  refine ⟨d, _, hf, ?_, sendCalls_of_frame hf, addressedSendCalls_of_frame address hf, hin, fun i hi => hout i (.inr hi)⟩
  rw [sendPayload_of_le hle, hfill, exec_encode, hpay]
  rfl

/-! ## Requests (R183) -/

theorem requestDrains_nil (batch : List Byte) (s : State) :
    requestDrains batch [] s = exec .drain (s.appendSrc batch) := rfl

/-- A request with a batch still to come goes on from a DRAIN that completed no frame. -/
theorem requestDrains_cons {batch next : List Byte} {later : List (List Byte)} {s t : State}
    (h : exec .drain (s.appendSrc batch) = .next t) :
    requestDrains batch (next :: later) s = if t.ready then .next t else requestDrains next later t := by
  rw [requestDrains, h]

theorem requestDrains_completes (batch : List Byte) (more : List (List Byte)) (s : State) :
    ∃ t, requestDrains batch more s = .next t := by
  induction more generalizing batch s with
  | nil => exact ⟨_, exec_drain (s.appendSrc batch)⟩
  | cons next later ih =>
    rw [requestDrains_cons (exec_drain (s.appendSrc batch))]
    split
    · exact ⟨_, rfl⟩
    · exact ih next _

/-- Settles O40: the request's own equations, and completion by induction on the batches still to come. -/
theorem requestEndsAtTheFirstCompletion : Obligations.RequestEndsAtTheFirstCompletion :=
  ⟨fun _ _ => rfl, requestDrains_nil, fun _ _ _ _ _ => requestDrains_cons, requestDrains_completes⟩

end Sys2Proof.Machine
end

section
/-! PROOFS. The two marks (60_exceptions.md R202 to R207): what sets them, that nothing clears them, and that nothing else
depends on them. -/

namespace Sys2Proof.Machine

variable {s s' t : State}

/-! ## An illegal state code (R203) -/

/-- Settles O32: the first micro-step finds the code before it pops. -/
theorem drainInAnIllegalStateMarksAndEnds : Obligations.DrainInAnIllegalStateMarksAndEnds :=
  fun s hl hsrc => congrArg Host.Outcome.next (drainAll_illegal s.startCommand hsrc hl)

/-! ## The marks do not decide (R206) -/

/-- Two states that differ in the marks at most. -/
def State.EqUpToMarks (s s' : State) : Prop := ∃ f r, s' = { s with faultMark := f, refusedMark := r }

/-- R83 selects the case by the registers, and no body but that of the illegal codes reaches a mark. -/
theorem State.EqUpToMarks.feedStep_eqUpToMarks (b : Byte) (h : s.EqUpToMarks s') :
    (feedStep b s).EqUpToMarks (feedStep b s') := by
  obtain ⟨f, r, rfl⟩ := h
  have hcase : ({ s with faultMark := f, refusedMark := r } : State).feedCase b = s.feedCase b := rfl
  unfold feedStep
  rw [hcase]
  cases s.feedCase b
  case rbodyData => simp only [bodyRbodyData, State.storeData_eq]; exact ⟨f, r, rfl⟩
  case illegal => exact ⟨f.or (some (.illegalState s.st)), r, rfl⟩
  all_goals exact ⟨f, r, rfl⟩

theorem State.EqUpToMarks.applyMoves_eqUpToMarks (ms : List HostMove) (h : s.EqUpToMarks s') :
    (applyMoves ms s).EqUpToMarks (applyMoves ms s') := by
  induction ms generalizing s s' with
  | nil => exact h
  | cons m ms ih =>
    obtain ⟨f, r, rfl⟩ := h
    refine ih ⟨f, r, ?_⟩
    cases m <;> rfl

theorem State.EqUpToMarks.takeGap_eqUpToMarks (h : s.EqUpToMarks s') : s.takeGap.EqUpToMarks s'.takeGap := by
  obtain ⟨f, r, rfl⟩ := h
  rw [State.takeGap_eq_applyMoves, State.takeGap_eq_applyMoves]
  exact State.EqUpToMarks.applyMoves_eqUpToMarks _ ⟨f, r, rfl⟩

theorem State.EqUpToMarks.rebind_eqUpToMarks (bound : Bool) (cap : Byte) (h : s.EqUpToMarks s') :
    State.EqUpToMarks { s.markRebind with bound := bound, cap := cap }
      { s'.markRebind with bound := bound, cap := cap } := by
  obtain ⟨f, r, rfl⟩ := h
  rw [State.markRebind_eq, State.markRebind_eq]
  exact ⟨_, r, rfl⟩

/-- Nothing that an instruction is made of reads a mark, but to keep the first reason or word in it. -/
theorem State.EqUpToMarks.simulation : Simulation State.EqUpToMarks where
  st := by rintro s _ ⟨f, r, rfl⟩; rfl
  cnt := by rintro s _ ⟨f, r, rfl⟩; rfl
  len := by rintro s _ ⟨f, r, rfl⟩; rfl
  ready := by rintro s _ ⟨f, r, rfl⟩; rfl
  pay := by rintro s _ ⟨f, r, rfl⟩; rfl
  src := by rintro s _ ⟨f, r, rfl⟩; rfl
  gaps := by rintro s _ ⟨f, r, rfl⟩; rfl
  start := by rintro s _ ⟨f, r, rfl⟩; exact ⟨f, r, rfl⟩
  feed := State.EqUpToMarks.feedStep_eqUpToMarks
  pop := by rintro s _ rest ⟨f, r, rfl⟩; exact ⟨f, r, rfl⟩
  gap := State.EqUpToMarks.takeGap_eqUpToMarks
  illegal := by rintro s _ ⟨f, r, rfl⟩; exact ⟨_, r, rfl⟩
  refuse := by rintro s _ w ⟨f, r, rfl⟩; exact ⟨f, _, rfl⟩
  rebind := State.EqUpToMarks.rebind_eqUpToMarks
  append := by rintro s _ bytes ⟨f, r, rfl⟩; exact ⟨f, r, rfl⟩

/-- Settles O46: the instruction runs in step with itself under the other marks. -/
theorem marksNeverAffectBehaviour : Obligations.MarksNeverAffectBehaviour := by
  intro i s t f r hexec
  obtain ⟨_, hexec', f', r', rfl⟩ := State.EqUpToMarks.simulation.exec_related i ⟨f, r, rfl⟩ hexec
  exact ⟨f', r', hexec'⟩

/-! ## The marks are sticky (R206) -/

/-- Whatever mark `s` has, `t` has. -/
structure State.KeepsMarks (s t : State) : Prop where
  fault {r : FaultReason} : s.faultMark = some r → t.faultMark = some r
  refused {r : RefusalReason} : s.refusedMark = some r → t.refusedMark = some r

theorem State.KeepsMarks.of_eq (hfault : t.faultMark = s.faultMark) (hrefused : t.refusedMark = s.refusedMark) :
    s.KeepsMarks t :=
  ⟨hfault.trans, hrefused.trans⟩

theorem State.KeepsMarks.raise_keepsMarks (h : s.KeepsMarks t) (r : FaultReason) : s.KeepsMarks (t.raise r) :=
  ⟨fun hs => by rw [State.raise_faultMark, h.fault hs, Option.some_or], h.refused⟩

theorem State.KeepsMarks.refuse_keepsMarks (h : s.KeepsMarks t) (w : Word) : s.KeepsMarks (t.refuse w) :=
  ⟨h.fault, fun hs => by rw [State.refuse_refusedMark, h.refused hs, Option.some_or]⟩

theorem State.KeepsMarks.markRebind_keepsMarks (h : s.KeepsMarks t) : s.KeepsMarks t.markRebind := by
  unfold State.markRebind
  split
  · exact h.raise_keepsMarks _
  · exact h

theorem State.KeepsMarks.feedStep_keepsMarks (h : s.KeepsMarks t) (b : Byte) : s.KeepsMarks (feedStep b t) := by
  refine ⟨fun hs => ?_, fun hs => (feedStep_refusedMark b t).trans (h.refused hs)⟩
  cases hl : Fsm.legal t.st with
  | true => exact (feedStep_faultMark b t hl).trans (h.fault hs)
  | false => rw [feedStep_illegal b t hl]; exact (h.raise_keepsMarks _).fault hs

theorem takeGap_marks (s : State) : s.takeGap.faultMark = s.faultMark ∧ s.takeGap.refusedMark = s.refusedMark := by
  obtain ⟨bytes, n, d, p, heq, -⟩ := s.takeGap_eq
  rw [heq]
  exact ⟨rfl, rfl⟩

theorem State.KeepsMarks.takeGap_keepsMarks (h : s.KeepsMarks t) : s.KeepsMarks t.takeGap :=
  ⟨fun hs => (takeGap_marks t).1.trans (h.fault hs), fun hs => (takeGap_marks t).2.trans (h.refused hs)⟩

theorem State.KeepsMarks.drainAll_keepsMarks (h : s.KeepsMarks t) : s.KeepsMarks (drainAll t) :=
  drainLoop_induction s.KeepsMarks
    (fun u b rest _ _ h => State.KeepsMarks.feedStep_keepsMarks (t := { u with src := rest }) ⟨h.fault, h.refused⟩ b)
    (fun _ h => h.takeGap_keepsMarks) (fun _ _ h => h.raise_keepsMarks _) _ t h

theorem exec_keepsMarks (i : Instr) (hexec : exec i s = .next t) : s.KeepsMarks t := by
  have hstart : s.KeepsMarks s.startCommand := .of_eq rfl rfl
  rcases exec_inversion s i t hexec with
    ⟨b, rfl, -⟩ | ⟨-, rfl⟩ | ⟨w, rfl⟩ | rfl | ⟨c, -, rfl⟩ | ⟨-, rfl⟩ | ⟨l, -, rfl⟩
  · exact hstart.feedStep_keepsMarks b
  · exact hstart.drainAll_keepsMarks
  · exact hstart.refuse_keepsMarks w
  · exact hstart
  · exact ⟨hstart.markRebind_keepsMarks.fault, hstart.markRebind_keepsMarks.refused⟩
  · exact ⟨hstart.markRebind_keepsMarks.fault, hstart.markRebind_keepsMarks.refused⟩
  · exact .of_eq rfl rfl

/-- Settles O45: what an instruction is made of sets a mark only where none is; the first refused word is kept as well. -/
theorem marksAreSticky : Obligations.MarksAreSticky := fun i _ _ hexec =>
  ⟨fun _ => (exec_keepsMarks i hexec).fault, fun r hs => ⟨r, (exec_keepsMarks i hexec).refused hs⟩⟩

/-! ## What sets a mark (R202, R203, R204) -/

/-- From a legal state a DRAIN sets no fault (R203). -/
theorem drainAll_faultMark (hl : Fsm.legal s.st = true) : (drainAll s).faultMark = s.faultMark := by
  refine (drainLoop_induction (fun t => Fsm.legal t.st = true ∧ t.faultMark = s.faultMark)
    (fun t b rest _ hlegal h => ?_) (fun t h => ?_) (fun t hillegal h => ?_) _ s ⟨hl, rfl⟩).2
  · exact ⟨feedStep_legal b { t with src := rest } hlegal, (feedStep_faultMark b { t with src := rest } hlegal).trans h.2⟩
  · rwa [takeGap_st, (takeGap_marks t).1]
  · exact absurd h.1 (Bool.eq_false_iff.1 hillegal)

@[simp] theorem drainAll_refusedMark (s : State) : (drainAll s).refusedMark = s.refusedMark :=
  drainLoop_induction (fun t => t.refusedMark = s.refusedMark)
    (fun t b rest _ _ h => (feedStep_refusedMark b { t with src := rest }).trans h)
    (fun t h => (takeGap_marks t).2.trans h) (fun _ _ h => h) _ s rfl

/-- A rebinding that changes the fault mark is the first fault (R202). -/
theorem State.markRebind_sets_first (h : s.markRebind.faultMark ≠ s.faultMark) :
    s.faultMark = none ∧ s.markRebind.faultMark = some .rebindMidframe := by
  unfold State.markRebind at h ⊢
  split at h
  · rw [if_pos ‹_›]
    cases hs : s.faultMark with
    | none => simp [hs]
    | some r => simp [hs] at h
  · contradiction

/-- In a legal state only a rebinding changes the fault mark. -/
theorem exec_faultMark_of_legal (i : Instr) (hl : Fsm.legal s.st = true) (hexec : exec i s = .next t) :
    t.faultMark = s.faultMark ∨
      ((∃ c, i = .bind c) ∨ i = .unbind) ∧ t.faultMark = s.startCommand.markRebind.faultMark := by
  rcases exec_inversion s i t hexec with
    ⟨b, rfl, -⟩ | ⟨-, rfl⟩ | ⟨w, rfl⟩ | rfl | ⟨c, hi, rfl⟩ | ⟨hi, rfl⟩ | ⟨l, -, rfl⟩
  · exact .inl (feedStep_faultMark b s.startCommand hl)
  · exact .inl (drainAll_faultMark (s := s.startCommand) hl)
  · exact .inl rfl
  · exact .inl rfl
  · exact .inr ⟨.inl ⟨c, hi⟩, rfl⟩
  · exact .inr ⟨.inr hi, rfl⟩
  · exact .inl rfl

/-- A dispatch case that completes left the state of a FEED step (R120). -/
theorem exec_case_next {i : Instr} {k : Key} {atLen : Bool} (hi : encode i = .key k atLen) (hexec : exec i s = .next t) :
    ∃ b, t = feedStep b s.startCommand := by
  cases i
  case feedSh1Hit | feedSh2Hit | feedSh2Rehit =>
    exact ⟨_, (runCase_next s _ _ _ t (fun hc => (feedStep_of_case s _ _ hc).symm) hexec).1⟩
  case feedSh1Miss b | feedSh2Miss b | feedRlen b | feedRbodyData b | feedRbodyZchk b | feedRchk b =>
    exact ⟨b, (runCase_next s _ b _ t (fun hc => (feedStep_of_case s b _ hc).symm) hexec).1⟩
  case feedIllegal5 b | feedIllegal6 b | feedIllegal7 b => exact ⟨b, (runIllegal_next s _ b t hexec).1⟩
  all_goals contradiction

theorem exec_command_refusedMark {i : Instr} (hi : isCommand i = true) (hexec : exec i s = .next t) :
    t.refusedMark = s.refusedMark := by
  cases i
  case nop => cases hexec; rfl
  case feed b => cases hexec; exact feedStep_refusedMark b s.startCommand
  case drain => cases hexec; exact drainAll_refusedMark s.startCommand
  case bind c => cases hexec; rw [State.markRebind_eq]; rfl
  case unbind => cases hexec; rw [State.markRebind_eq]; rfl
  case encode l => cases hexec; rfl
  all_goals contradiction

/-- Only a refused word changes the refusal mark (R204). -/
theorem exec_refusedMark (i : Instr) (hexec : exec i s = .next t) :
    t.refusedMark = s.refusedMark ∨ ∃ w, RefusesWord i w := by
  cases hcode : encode i with
  | absent => cases i <;> contradiction
  | command w =>
    cases hi : isCommand i with
    | true => exact .inl (exec_command_refusedMark hi hexec)
    | false => exact .inr ⟨w, refusesWord_of_exec (exec_eq_refuseWord hi hcode)⟩
  | key k atLen =>
    obtain ⟨b, rfl⟩ := exec_case_next hcode hexec
    exact .inl (feedStep_refusedMark b s.startCommand)

/-- Settles O48: the invariant's state code is legal, so no FEED step and no DRAIN finds one that is not. -/
theorem marksAriseOnlyWhereTheRulesSay : Obligations.MarksAriseOnlyWhereTheRulesSay := by
  intro i s t hinv hexec
  refine ⟨fun hfault => ?_, (exec_refusedMark i hexec).resolve_left⟩
  obtain ⟨hi, heq⟩ := (exec_faultMark_of_legal i hinv.legal hexec).resolve_left hfault
  rw [heq] at hfault ⊢
  exact ⟨hi, State.markRebind_sets_first (s := s.startCommand) hfault⟩

end Sys2Proof.Machine
end

section
/-! PROOFS. Reset, and the hazards of rebinding and of reusing `DST` after a completion (70_reset_and_hazards.md R230, R234,
R235). -/

namespace Sys2Proof.Machine

variable {s t : State}

/-! ## Reset (R230) -/

/-- Settles O1: the event is `resetBlock`, which takes the values of `State.reset` and no other field. -/
theorem resetSetsRegistersAndMarks : Obligations.ResetSetsRegistersAndMarks :=
  ⟨fun _ => rfl, rfl, rfl, rfl, rfl, rfl, rfl, rfl, rfl⟩

/-! ## Rebinding after a completion (R234) -/

/-- `ready = 1` stands only while the FSM searches for a header (R129, R130). -/
def State.ReadySearches (s : State) : Prop := s.ready = true → s.st = Fsm.seekHeader1

theorem State.ReadySearches.of_not_ready (h : s.ready = false) : s.ReadySearches :=
  fun hready => absurd hready (Bool.eq_false_iff.1 h)

/-- Neither the host's moves in a gap nor a fault's mark touch `ready` or the FSM (R133, R203). -/
theorem drainAll_readySearches (h : s.ReadySearches) : (drainAll s).ReadySearches :=
  drainLoop_induction State.ReadySearches
    (fun u b rest _ _ _ => feedStep_ready_st b { u with src := rest })
    (fun u hu hready => (takeGap_st u).trans (hu ((takeGap_outputs u).1.symm.trans hready)))
    (fun _ _ hu => hu) _ s h

/-- After any instruction: only a FEED step or a DRAIN can leave `ready = 1` (R165). -/
theorem exec_readySearches (i : Instr) (hexec : exec i s = .next t) : t.ReadySearches := by
  rcases exec_inversion s i t hexec with
    ⟨b, rfl, -⟩ | ⟨-, rfl⟩ | ⟨w, rfl⟩ | rfl | ⟨c, -, rfl⟩ | ⟨-, rfl⟩ | ⟨l, -, rfl⟩
  · exact feedStep_ready_st b s.startCommand
  · exact drainAll_readySearches (.of_not_ready rfl)
  · exact .of_not_ready rfl
  · exact .of_not_ready rfl
  · exact .of_not_ready (rebind_ready s true c)
  · exact .of_not_ready (rebind_ready s false 0#8)
  · exact .of_not_ready rfl

/-- Settles O52: the FSM searches, so it is in no frame that a rebinding could cut. -/
theorem readyLeavesTheDecoderSearching : Obligations.ReadyLeavesTheDecoderSearching := by
  intro i s t c hexec hready
  have hst : t.st = Fsm.seekHeader1 := exec_readySearches i hexec hready
  have hout : ¬ ((t.st = Fsm.readBody ∨ t.st = Fsm.readChecksum) ∧ t.cnt ≠ 0#8) := by simp [hst]
  obtain ⟨-, hbind⟩ := bindSetsTheBinding
  obtain ⟨-, hunbind⟩ := unbindClearsTheBinding
  exact ⟨hst, (hbind c t).1 hout, (hunbind t).1 hout⟩

/-! ## The bytes after a completion (R235) -/

/-- The header states are the first three codes, in the order of the frame's bytes (R21). -/
theorem header_state_of_le : ∀ st : StCode, st.toNat ≤ 2 →
    st = Fsm.seekHeader1 ∨ st = Fsm.seekHeader2 ∨ st = Fsm.readLen := by
  decide

/-- A byte in a header state reports nothing, writes nothing, and leads at most one state on (R121 to R126). -/
theorem feedStep_header_state (b : Byte) (hst : s.st.toNat ≤ 2) :
    (feedStep b s).ready = false ∧ s.portWrites b = [] ∧ (feedStep b s).st.toNat ≤ s.st.toNat + 1 := by
  unfold State.portWrites
  rcases header_state_of_le s.st hst with h | h | h
  · rw [feedStep_seekHeader1 b s h, h]
    refine ⟨rfl, rfl, ?_⟩
    dsimp only
    split <;> decide
  · rw [feedStep_seekHeader2 b s h, h]
    refine ⟨rfl, rfl, ?_⟩
    dsimp only
    repeat' split
    all_goals decide
  · rw [feedStep_readLen b s h, h]
    exact ⟨rfl, rfl, Nat.le_refl 3⟩

/-- The body is reached by one byte per state at the earliest, and until then nothing is reported or written. -/
theorem fed_before_body (bs : List Byte) (hbs : s.st.toNat + bs.length ≤ 3) :
    ∃ t, Fed s bs (List.replicate bs.length false) [] t := by
  induction bs generalizing s with
  | nil => exact ⟨s, .nil s⟩
  | cons b bs ih =>
    rw [List.length_cons] at hbs
    obtain ⟨hready, hwrites, hst⟩ := feedStep_header_state (s := s.startCommand) b (by simp; omega)
    obtain ⟨t, hrest⟩ := ih (s := feedStep b s.startCommand) (by simp at hst; omega)
    have hfed := Fed.cons rfl hrest
    rw [hready, feedStep_writes, hwrites] at hfed
    exact ⟨t, hfed⟩

/-- From the header search, bound with room for a byte: a header, a length above 0 and a data byte write that byte at offset
0 (R126 to R128). -/
theorem runFeeds_first_data_byte {l : Byte} (b : Byte) (hst : s.st = Fsm.seekHeader1) (hl : l ≠ 0#8)
    (hbound : s.bound = true) (hcap : 0#8 < s.cap) :
    ∃ t, runFeeds [Config.header1, Config.header2, l, b] s = some ([false, false, false, false], t) ∧
      t.writes = [⟨0#8, b⟩] ∧ Memory.read t.dst 0 = some b := by
  have hlen : (0#8 : Byte).toNat + (l.toNat - 1 + 1) = l.toNat := by bv_omega
  have hdata := State.Awaits.feedStep_data_byte
    (s := { s with st := Fsm.readBody, len := l, acc := l, cnt := 0#8, ready := false, writes := [] })
    ⟨hlen, .inl rfl⟩ b hbound
  have hfed := (fed_header l (.inl hst)).append (.cons hdata (.nil _))
  exact ⟨_, hfed.runFeeds_eq, if_pos hcap,
    (Memory.read_writeAll_gatedWrite s.dst s.cap 0#8 b 0).trans (if_pos ⟨rfl, hcap⟩)⟩

/-- Settles O59: three bytes reach the body at the earliest, so `DST` takes no write from them. -/
theorem payloadSurvivesThreeBytes : Obligations.PayloadSurvivesThreeBytes := by
  intro s b1 b2 b3 hst
  obtain ⟨t, hfed⟩ := fed_before_body (s := s) [b1, b2, b3] (by rw [hst]; exact Nat.le_refl 3)
  exact ⟨⟨t, hfed.runFeeds_eq, hfed.dst_eq⟩, fun l b hl hbound hcap => runFeeds_first_data_byte b hst hl hbound hcap⟩

end Sys2Proof.Machine
end
